-- ==== Sys2Proof/Word.lean ====
section
/-! DEFINITION. The word types of the LD2410 frame codec: every value is unsigned (spec/00_scope.md R12). -/

namespace Sys2Proof

/-- A byte, 0..255 (R12). -/
abbrev Byte := BitVec 8

/-- `u16` of R12: the length field, the command word, `enc_plen`, `enc_pay_addr`. -/
abbrev Word16 := BitVec 16

/-- Width of the buffer index and of `rd_addr` (R9, ADDR_W = 6). -/
abbrev Addr := BitVec 6

/-- The 17-bit encoder index and total of R69. -/
abbrev Index17 := BitVec 17

/-- The 11-bit decoder input word of R66. -/
abbrev Diw := BitVec 11

/-- `zext_16(b)` of R12. -/
def zext16 (b : Byte) : Word16 := b.zeroExtend 16

/-- `v[7:0]` of a 16-bit value. -/
def lowByte (v : Word16) : Byte := v.extractLsb' 0 8

/-- `v[15:8]` of a 16-bit value. -/
def highByte (v : Word16) : Byte := v.extractLsb' 8 8

end Sys2Proof
end

