-- ==== Sys2Proof/Syntax.lean ====
section
/-! DEFINITION. The operations of spec/opcode_table.json (spec/30_encoding.md R71), and what the host drives on the ports to
present one (R66, R68, R69): the codec has no instruction words but DIW. -/

namespace Sys2Proof

/-- The two forms of TAKE (R101): the whole payload, or one access of the read port at `rd_addr`. -/
inductive ReadForm
  | whole
  | port (rdAddr : Addr)
deriving DecidableEq, Repr

/-- What the caller drives for a payload `p` (R69): `enc_plen`, and the bytes it serves on `enc_pay_data` at `enc_pay_addr` 0, 1, ….
They need not be `enc_plen` many (log 17). -/
structure PayloadPort where
  plen : Word16
  served : List Byte
deriving DecidableEq, Repr

/-- A caller that serves exactly the payload `p` of R120: `enc_plen` is P = |p|, and for P > 0xFFFF, which the 16-bit port cannot
show, its largest value. ENC_MAX_PAYLOAD ≤ 0xFFFD (R9), so that ENC of such a payload is CapacityError, as R121 says (log 18). -/
def PayloadPort.ofBytes (p : List Byte) : PayloadPort := { plen := BitVec.ofNat 16 (min p.length 0xFFFF), served := p }

/-- One constructor per row of spec/opcode_table.json. -/
inductive Instr
  /-- POR: power-on reset (R155). -/
  | por
  /-- RESET: the document's `reset()` (R99). -/
  | reset
  /-- BYTE d: `process_byte` (R85). -/
  | byte (d : Byte)
  /-- IDLE: a clock edge with nothing presented (R100). -/
  | idle
  /-- TAKE: `take_payload()`, or one read-port access (R101). -/
  | take (form : ReadForm)
  /-- ENC cmd, p: `build_command` (R120). -/
  | enc (cmd : Word16) (payload : PayloadPort)
  /-- ENCB cmd, p, j: the field multiplexer at index j (R122). -/
  | encb (cmd : Word16) (payload : PayloadPort) (idx : Index17)
deriving DecidableEq, Repr

/-- One operation as the host presents it on the ports; the raw form that `decode` reads.
DESIGN CHOICE (log 4): only DIW is a word of the spec; the other constructors name the ports driven. -/
inductive Input
  /-- A DIW word sampled at a clock edge (R66). -/
  | diw (w : Diw)
  /-- A read of `payload_len` and of `rd_data` at `rd_addr = 0 .. payload_len - 1` (R68). -/
  | readAll
  /-- One access of the read port (R45). -/
  | readPort (rdAddr : Addr)
  /-- The encoder read at every index, with `enc_cmd` and the payload ports fixed (R69). -/
  | encFrame (cmd : Word16) (payload : PayloadPort)
  /-- The encoder read at one `enc_idx` (R69). -/
  | encByte (cmd : Word16) (payload : PayloadPort) (idx : Index17)
  /-- A word with bits that no port of the block carries (log 14). -/
  | unmapped (w : Nat)
deriving DecidableEq, Repr

/-- Why a presentation is no operation of the block. -/
inductive DecodeError
  /-- The word has bits above bit 10; DIW has bits 10..0 (R66). -/
  | bitsWithoutPort
deriving DecidableEq, Repr

end Sys2Proof
end

