-- ==== Sys2Proof/WellFormed.lean ====
section
/-! DEFINITION. Which instructions the ports can present (spec/30_encoding.md R66 to R69): every one, since each operand's type is
as wide as its port, and the caller may serve any bytes on `enc_pay_data`. -/

namespace Sys2Proof

/-- An instruction that the ports can present. -/
def Instr.wf : Instr → Bool
  | .por => true
  | .reset => true
  | .byte _ => true
  | .idle => true
  | .take _ => true
  | .enc _ _ => true
  | .encb _ _ _ => true

end Sys2Proof
end

