-- ==== Sys2Proof/Decode.lean ====
section
/-! DEFINITION. The decoder of port presentations (spec/30_encoding.md R66 to R69), total, rejecting by name, and the encoder
written from the same tables. -/

namespace Sys2Proof

/-- The operation a DIW word selects, with priority `rst` > `soft_reset` > `in_valid` (R67). Every word selects one. -/
def decodeDiw (w : Diw) : Instr :=
  if w[10] then .por
  else if w[9] then .reset
  else if w[8] then .byte (w.extractLsb' 0 8)
  else .idle

/-- The instruction a presentation stands for. -/
def decode : Input → Except DecodeError Instr
  | .diw w => .ok (decodeDiw w)
  | .readAll => .ok (.take .whole)
  | .readPort a => .ok (.take (.port a))
  | .encFrame cmd payload => .ok (.enc cmd payload)
  | .encByte cmd payload idx => .ok (.encb cmd payload idx)
  | .unmapped _ => .error .bitsWithoutPort

/-- The canonical presentation of an instruction: POR = 0x400, RESET = 0x200, BYTE d = 0x100 | d, IDLE = 0x000 (R67);
TAKE on the read port (R68); ENC and ENCB on the encoder ports (R69). -/
def encode : Instr → Input
  | .por => .diw 0x400
  | .reset => .diw 0x200
  | .byte d => .diw (0x100 ||| d.zeroExtend 11)
  | .idle => .diw 0x000
  | .take .whole => .readAll
  | .take (.port a) => .readPort a
  | .enc cmd payload => .encFrame cmd payload
  | .encb cmd payload idx => .encByte cmd payload idx

/-- A numeral of `nbits` bits as the presentation it stands for: a DIW word, where no bit lies above bit 10 (R66, log 14). -/
def inputOfWord (nbits w : Nat) : Input :=
  if w % 2 ^ nbits < 2 ^ 11 then .diw (BitVec.ofNat 11 (w % 2 ^ nbits)) else .unmapped (w % 2 ^ nbits)

/-- The instruction the decoder reads from a word of spec/opcode_table.json. -/
def decodeTableWord (nbits w : Nat) : Option Instr :=
  match decode (inputOfWord nbits w) with
  | .ok i => some i
  | .error _ => none

end Sys2Proof
end

