-- ==== Sys2Proof/Config.lean ====
section
/-! DEFINITION. The construction-time configuration of the block (spec/00_scope.md R9 to R11, spec/10_state.md R30)
and the free values the spec leaves open. -/

namespace Sys2Proof

/-- `ORDER`: the byte order of the length field and of the command word (R9, R47). -/
inductive ByteOrder
  | le
  | be
deriving DecidableEq, Repr

/-- What one unit is configured for: the signatures in wire order and the byte order (R3, R9). -/
structure FrameClass where
  /-- `HDR`, the header signature; `H` is its length. -/
  hdr : List Byte
  /-- `FTR`, the footer signature; `F` is its length. -/
  ftr : List Byte
  order : ByteOrder
deriving DecidableEq, Repr

/-- The whole configuration (R9, R30): the decoder's class and `CAP`; the encoder's class (R127) and `ENC_MAX_PAYLOAD`.
It is held in the state and no operation writes it (R30, R50). -/
structure Config where
  dec : FrameClass
  cap : Nat
  enc : FrameClass
  encMaxPayload : Nat
deriving DecidableEq, Repr

/-- Class CMD (R11): command/ack frames. -/
def FrameClass.cmd : FrameClass :=
  { hdr := [0xFD, 0xFC, 0xFB, 0xFA], ftr := [0x04, 0x03, 0x02, 0x01], order := .le }

/-- Class RPT (R11): report frames. -/
def FrameClass.rpt : FrameClass :=
  { hdr := [0xF4, 0xF3, 0xF2, 0xF1], ftr := [0xF8, 0xF7, 0xF6, 0xF5], order := .le }

/-- The third frame class, of which the spec gives only "`55 A5`-style framing" (R65).
DEDUCED: every header that begins `55 A5` is taken for it, which is safe: it can only refuse more (log 11). -/
def FrameClass.third (c : FrameClass) : Bool := c.hdr.take 2 == [0x55, 0xA5]

/-- R10 for one frame class: (1) lengths, (4) pairwise distinct header bytes, (5) not the third class.
Condition (2), a legal byte order, holds by the type. -/
def FrameClass.wf (c : FrameClass) : Bool :=
  decide (2 ≤ c.hdr.length) && decide (c.hdr.length ≤ 4) && decide (c.ftr.length = c.hdr.length)
    && decide c.hdr.Nodup && !c.third

/-- R10 with the ranges of R9: both classes well formed (R65: refused in the decoder and in the encoder),
32 ≤ CAP ≤ 64, ENC_MAX_PAYLOAD ≤ 0xFFFD. -/
def Config.wf (c : Config) : Bool :=
  c.dec.wf && c.enc.wf && decide (32 ≤ c.cap) && decide (c.cap ≤ 64) && decide (c.encMaxPayload ≤ 0xFFFD)

/-- A codec whose decoder is of class CMD (R11) and whose encoder is the CMD encoder (R127);
`CAP_CMD` and `ENC_MAX_PAYLOAD` are OPEN (D12, D13) and stay arguments. -/
def Config.cmd (cap encMax : Nat) : Config :=
  { dec := .cmd, cap := cap, enc := .cmd, encMaxPayload := encMax }

/-- A codec whose decoder is of class RPT (R11); the encoder is the CMD encoder (R127). -/
def Config.rpt (cap encMax : Nat) : Config :=
  { dec := .rpt, cap := cap, enc := .cmd, encMaxPayload := encMax }

/-- The configuration that `State.reset` carries. DESIGN CHOICE, unsafe (log 5): the spec fixes no instance; these are the
values spec/95_test_vectors.md takes unless a vector says otherwise. No obligation rests on them but those that name it. -/
def Config.reference : Config := .cmd 32 0xFFFD

/-- FREE VALUE: what `HDR[i]` reads as at an index the signature does not have (`i ≥ H`, only for H < 4, only in
states R31 excludes). The spec states no value there; this constant has no body, so no proof can know one (log 8). -/
opaque freeHeaderByte : FrameClass → Nat → Byte

/-- FREE VALUE: what stands on `enc_pay_data` at a payload index the caller does not serve (R69 gives that port the caller's byte
and says nothing of a caller that has none). The first argument is the model's counter `State.freeCount`, so that two operations
need not find the same byte; no body, so no proof can know one (log 17). -/
opaque freePayData : Nat → Nat → Byte

end Sys2Proof
end

