-- ==== Sys2Proof/Machine/State.lean ====
section
/-! DEFINITION. The state of the codec (spec/10_state.md R20 to R27, R30), the reasons a step can stop, and the machine right
after power-on reset (R34). -/

namespace Sys2Proof.Machine

/-- The parse phase (R21): five legal values and the three illegal codes of a 3-bit register. -/
inductive Phase
  | header
  | len0
  | len1
  | payload
  | footer
  /-- Code 5, never reached from reset. -/
  | illegal5
  /-- Code 6, never reached from reset. -/
  | illegal6
  /-- Code 7, never reached from reset. -/
  | illegal7
deriving DecidableEq, Repr

/-- The numeric encoding of R21 (D11). -/
def Phase.code : Phase → BitVec 3
  | .header => 0
  | .len0 => 1
  | .len1 => 2
  | .payload => 3
  | .footer => 4
  | .illegal5 => 5
  | .illegal6 => 6
  | .illegal7 => 7

/-- The five phases of R21 that are not marked illegal. -/
def Phase.legal : Phase → Bool
  | .header => true
  | .len0 => true
  | .len1 => true
  | .payload => true
  | .footer => true
  | .illegal5 => false
  | .illegal6 => false
  | .illegal7 => false

/-- The receive buffer (R27, R40): the cells that have been written, by rising index, each with its byte. -/
abbrev Memory := List Host.Cell

/-- What a cell that nothing has written reads as: it holds no value (R52, D17). -/
def Memory.unlisted (_ : Nat) : Option Byte := none

/-- The canonical form: indexes strictly rising. An unlisted cell has no value, so no entry can equal it. -/
abbrev Memory.wf (m : Memory) : Prop := List.Pairwise (fun x y => x.1 < y.1) m

/-- The encoder's output ports for one index (R69). -/
structure EncPorts where
  /-- `enc_byte` -/
  byte : Byte
  /-- `enc_pay_addr` -/
  payAddr : Word16
  /-- `enc_total` -/
  total : Index17
  /-- `enc_valid` -/
  valid : Bool
  /-- `enc_err` -/
  err : Bool
deriving DecidableEq, Repr

/-- The output of the last step (D31: "`done` per BYTE, TAKE results, encoder outputs"). The model's own field (log 7). -/
inductive Result
  /-- A decoder operation's `done` (R85, R99, R100, R155). -/
  | done (b : Bool)
  /-- TAKE: `payload_len` and the bytes `buf[0..payload_len-1]` (R101). -/
  | payload (payloadLen : Word16) (bytes : List Byte)
  /-- One read-port access: `payload_len` and `rd_data` (R45, R101). -/
  | readData (payloadLen : Word16) (rdData : Byte)
  /-- ENC: the frame's bytes, `enc_total`, `enc_err` (R120, R123; on CapacityError no bytes, 0 and true, R121). -/
  | frame (bytes : List Byte) (total : Index17) (err : Bool)
  /-- ENCB: the output ports (R122). -/
  | encByte (ports : EncPorts)
deriving DecidableEq, Repr

/-- Why a read is PRECONDITION_ERROR (R101, R52, R138). -/
inductive PreconditionInfo
  /-- TAKE with `frame_ready = 0` (R101 `not_ready`). -/
  | notReady
  /-- A read at an index ≥ `len` (R101 `out_of_range`), or at a cell that does not exist (D33). -/
  | outOfRange
  /-- A read of a cell that holds no value (R52); excluded by the invariant. -/
  | unwritten
deriving DecidableEq, Repr

/-- What stops a run. -/
inductive Fault
  /-- PRECONDITION_ERROR, code 8 (R135, R138). Raised by TAKE only. Safe: the hardware goes on with data the spec gives
  no meaning ("a model must not rely on those values", R101). -/
  | preconditionError (info : PreconditionInfo)
deriving DecidableEq, Repr

/-- Why no meaning is given. -/
inductive Refusal
  /-- An instruction without a meaning yet; raised by no arm of `exec` now. Safe. -/
  | notModelled (mnemonic : String)
  /-- CONFIG_REFUSED, code 10 (R10, R135): raised by `step` for a configuration that is not well formed. Safe. -/
  | configRefused
  /-- ENCB at an index ≥ T (R124): raised by ENCB. Safe: the hardware returns 0x00 with `enc_valid = 0`, which "is not part
  of the frame". -/
  | encIndexBeyondFrame
  /-- The host presents what is no operation of the block; raised by `step` when the decoder rejects. Safe. -/
  | notAnOperation (why : DecodeError)
deriving DecidableEq, Repr

/-- The whole state. `cfg` is hard-wired (R30); `phase` to `buf` are the decoder's state (R20) with the output register
`frame_done` (R26, R163); `result`, `input` and `freeCount` are the model's own (logs 7, 1 and 17). The encoder has no state (R33). -/
structure State where
  cfg : Config
  /-- R21 -/
  phase : Phase
  /-- `sig_idx`, R22 -/
  sigIdx : BitVec 2
  /-- `len`, shown on `payload_len`, R23 -/
  len : Word16
  /-- `wr_ptr`, R24 -/
  wrPtr : Addr
  /-- `frame_ready`, R25 -/
  frameReady : Bool
  /-- `frame_done`, R26, R163 -/
  frameDone : Bool
  /-- `buf`, R27 -/
  buf : Memory
  /-- The last step's output. -/
  result : Result
  /-- The operations the host presents, the next one first. -/
  input : List Input
  /-- How many operations have drawn a free `enc_pay_data`. -/
  freeCount : Nat
deriving DecidableEq, Repr

/-- The block of configuration `c` right after POR (R34, R155), the host presenting nothing yet. -/
def State.resetWith (c : Config) : State :=
  { cfg := c
    phase := .header
    sigIdx := 0
    len := 0
    wrPtr := 0
    frameReady := false
    frameDone := false
    buf := []
    result := .done false
    input := []
    freeCount := 0 }

/-- The machine right after reset (R34). Its configuration is the model's choice (log 5). -/
def State.reset : State := State.resetWith Config.reference

end Sys2Proof.Machine
end

