-- ==== Sys2Proof/Machine/Ops.lean ====
section
/-! DEFINITION. The shared operations over the buffer and the registers, the one recovery procedure `Reset()` (the nearest thing
the block has to taking an exception, spec/60_exceptions.md R141), and the fetch of the host's next operation. -/

namespace Sys2Proof.Machine

/-- `MemRead(i, 1)` (R42): the cell's byte, or no value where nothing has been written (R52). -/
def Memory.read (m : Memory) (a : Nat) : Option Byte :=
  match m with
  | [] => Memory.unlisted a
  | c :: rest => if c.1 = a then some c.2 else Memory.read rest a

/-- `MemWrite(i, 1, b)` (R43), keeping the canonical form. -/
def Memory.write (m : Memory) (a : Nat) (b : Byte) : Memory :=
  match m with
  | [] => [(a, b)]
  | c :: rest =>
    if a < c.1 then (a, b) :: c :: rest
    else if c.1 = a then (a, b) :: rest
    else c :: Memory.write rest a b

/-- `n` consecutive cells from index `i`; no value if one of them has none (R101's list of `MemRead`s). -/
def Memory.readRange (m : Memory) (i : Nat) : Nat → Option (List Byte)
  | 0 => some []
  | n + 1 =>
    match Memory.read m i, Memory.readRange m (i + 1) n with
    | some b, some bs => some (b :: bs)
    | _, _ => none

/-- A buffer write of the decoder (R93). -/
def State.memWrite (s : State) (i : Nat) (b : Byte) : State :=
  { s with buf := s.buf.write i b }

/-- `Reset()` (R86): the one procedure every resynchronisation calls, and RESET's whole effect. It does not write `buf`.
There is nothing to save and no return (R141, R142). -/
def State.resetRegs (s : State) : State :=
  { s with phase := .header, sigIdx := 0, len := 0, wrPtr := 0, frameReady := false }

/-- POR's effect on the buffer: every cell unwritten (R155). -/
def State.eraseBuf (s : State) : State :=
  { s with buf := [] }

/-- The step's output, where it is not a decoder operation's `done`: no other field changes (R101, R120). -/
def State.answer (s : State) (r : Result) : State :=
  { s with result := r }

/-- A step that has drawn a free value moves the counter on, so that the next one draws another (log 17). -/
def State.countFree (s : State) (drawn : Bool) : State :=
  { s with freeCount := s.freeCount + drawn.toNat }

/-- What the host drives when it presents nothing: DIW 000 (R71 "clock edge with nothing presented").
DESIGN CHOICE (log 2). -/
def nothingPresented : Input := .diw 0x000

/-- The next operation the host presents, and the state once it is taken from the list. -/
def State.fetch (s : State) : Input × State :=
  match s.input with
  | [] => (nothingPresented, s)
  | x :: rest => (x, { s with input := rest })

end Sys2Proof.Machine
end

