-- ==== Sys2Proof/Machine/Flags.lean ====
section
/-! DEFINITION. The block's only flags: `frame_ready` (spec/10_state.md R25) and the output register `frame_done` (R26, R163). -/

namespace Sys2Proof.Machine

/-- `frame_ready <- v` (R25). -/
def State.setReady (s : State) (v : Bool) : State :=
  { s with frameReady := v }

/-- The result of a decoder operation: `done`, held in `frame_done` until the next clock edge (R26, R163). -/
def State.setDone (s : State) (v : Bool) : State :=
  { s with frameDone := v, result := .done v }

end Sys2Proof.Machine
end

