-- ==== Sys2Proof/Machine/Operands.lean ====
section
/-! DEFINITION. Operand forms: signature bytes, the length field, the read port and the encoder's field multiplexer. -/

namespace Sys2Proof.Machine

/-- `HDR[i]` (R88). At an index the signature does not have it is a free value (log 8). -/
def headerByte (c : FrameClass) (i : BitVec 2) : Byte :=
  (c.hdr[i.toNat]?).getD (freeHeaderByte c i.toNat)

/-- `d = FTR[i]` (R95 to R97). At an index the signature does not have there is no match: R107 leaves only R97 (log 9). -/
def footerMatches (c : FrameClass) (i : BitVec 2) (d : Byte) : Bool :=
  c.ftr[i.toNat]? == some d

/-- `len` after the first length byte (R90). -/
def lenFirst (o : ByteOrder) (d : Byte) : Word16 :=
  match o with
  | .le => zext16 d
  | .be => zext16 d <<< 8

/-- The assembled length `L` after the second length byte (R91). -/
def lenSecond (o : ByteOrder) (len : Word16) (d : Byte) : Word16 :=
  match o with
  | .le => len ||| (zext16 d <<< 8)
  | .be => len ||| zext16 d

/-- `ser16(v)` (R13). -/
def ser16 (o : ByteOrder) (v : Word16) : List Byte :=
  match o with
  | .le => [lowByte v, highByte v]
  | .be => [highByte v, lowByte v]

/-- The read port (R45): `rd_data` at `rd_addr`, combinational; 0x00 at `rd_addr ≥ CAP`; no value at an unwritten cell (R52). -/
def State.rdData (s : State) (a : Addr) : Option Byte :=
  if a.toNat < s.cfg.cap then s.buf.read a.toNat else some 0x00

/-- The select column of R122. -/
inductive EncField
  | hdr (k : Nat)
  | lenB0
  | lenB1
  | cmdB0
  | cmdB1
  | pay (k : Nat)
  | ftr (k : Nat)
  /-- `j ≥ T`, beyond the frame (R124). -/
  | none
deriving DecidableEq, Repr

/-- `T = H + 4 + P + F` (R122) of an encoder of class `c` for a payload of `P` bytes. -/
def encLength (c : FrameClass) (P : Nat) : Nat := c.hdr.length + 4 + P + c.ftr.length

/-- The field that index `j` selects (R122's rows, in order). -/
def encSelect (c : FrameClass) (P j : Nat) : EncField :=
  let H := c.hdr.length
  if j < H then .hdr j
  else if j = H then .lenB0
  else if j = H + 1 then .lenB1
  else if j = H + 2 then .cmdB0
  else if j = H + 3 then .cmdB1
  else if j < H + 4 + P then .pay (j - H - 4)
  else if j < encLength c P then .ftr (j - H - 4 - P)
  else .none

/-- `enc_pay_data` at `enc_pay_addr = k` (R69): the byte the caller serves, or where it serves none a free value; `count` tells one
operation's free values from another's (log 17). -/
def payData (count : Nat) (p : PayloadPort) (k : Nat) : Byte :=
  (p.served[k]?).getD (freePayData count k)

/-- The P payload bytes that the encoder reads; a byte served at an index from P on is never asked for. -/
def payBytes (count : Nat) (p : PayloadPort) : List Byte :=
  (List.range p.plen.toNat).map (payData count p)

/-- `enc_byte` of R122 for a selected field; 0x00 beyond the frame (R124). -/
def encFieldByte (c : FrameClass) (cmd : Word16) (P : Nat) (pay : Nat → Byte) : EncField → Byte
  | .hdr k => c.hdr.getD k 0
  | .lenB0 => (ser16 c.order (BitVec.ofNat 16 (2 + P))).getD 0 0
  | .lenB1 => (ser16 c.order (BitVec.ofNat 16 (2 + P))).getD 1 0
  | .cmdB0 => (ser16 c.order cmd).getD 0 0
  | .cmdB1 => (ser16 c.order cmd).getD 1 0
  | .pay k => pay k
  | .ftr k => c.ftr.getD k 0
  | .none => 0

/-- Whether a selected field asks for a payload byte that the caller does not serve. -/
def encFieldUnserved (p : PayloadPort) : EncField → Bool
  | .pay k => decide (p.served.length ≤ k)
  | .hdr _ => false
  | .lenB0 => false
  | .lenB1 => false
  | .cmdB0 => false
  | .cmdB1 => false
  | .ftr _ => false
  | .none => false

/-- `enc_pay_addr` of R122: the payload index where PAY is selected, else 0. -/
def encFieldPayAddr : EncField → Word16
  | .pay k => BitVec.ofNat 16 k
  | .hdr _ => 0
  | .lenB0 => 0
  | .lenB1 => 0
  | .cmdB0 => 0
  | .cmdB1 => 0
  | .ftr _ => 0
  | .none => 0

/-- CapacityError's condition, on P = `enc_plen` (R121, R69). -/
def capacityExceeded (c : Config) (P : Nat) : Bool := decide (c.encMaxPayload < P)

/-- Every encoder output port at one index (R69, R121 to R124), `pay` being the payload port. With CapacityError no index is valid
and no byte is produced (R121, R140): `enc_byte` is 0x00 by R70's `enc_idx ≥ enc_total` (log 12). -/
def encPorts (c : Config) (cmd : Word16) (P : Nat) (pay : Nat → Byte) (j : Index17) : EncPorts :=
  if capacityExceeded c P then
    { byte := 0, payAddr := 0, total := 0, valid := false, err := true }
  else
    { byte := encFieldByte c.enc cmd P pay (encSelect c.enc P j.toNat)
      payAddr := encFieldPayAddr (encSelect c.enc P j.toNat)
      total := BitVec.ofNat 17 (encLength c.enc P)
      valid := decide (j.toNat < encLength c.enc P)
      err := false }

/-- `out` of R120: `ENC_HDR ++ ser16(2 + P) ++ ser16(cmd) ++ p ++ ENC_FTR`. -/
def encFrame (c : FrameClass) (cmd : Word16) (p : List Byte) : List Byte :=
  c.hdr ++ ser16 c.order (BitVec.ofNat 16 (2 + p.length)) ++ ser16 c.order cmd ++ p ++ c.ftr

end Sys2Proof.Machine
end

