-- ==== Sys2Proof/Machine/Decoder.lean ====
section
/-! DEFINITION. The decoder's clocked operations: BYTE with one definition per rule R88 to R98, RESET and IDLE
(spec/40_decoder.md). -/

namespace Sys2Proof.Machine

/-- The rule of spec/40_decoder.md that one BYTE takes; exactly one applies (R107). -/
inductive ByteRule
  /-- R88 -/
  | headerMatch
  /-- R89 -/
  | headerMismatch
  /-- R90 -/
  | firstLength
  /-- R91, `L ≥ CAP` -/
  | lengthRejected
  /-- R92 -/
  | lengthAccepted
  /-- R93 -/
  | payloadByte
  /-- R94 -/
  | payloadViolation
  /-- R95 -/
  | footerMatch
  /-- R96 -/
  | frameComplete
  /-- R97 -/
  | footerMismatch
  /-- R98 -/
  | illegalPhase
deriving DecidableEq, Repr

/-- The dispatch of R85 on the phase before the byte. -/
def byteRule (d : Byte) (s : State) : ByteRule :=
  match s.phase with
  | .header => if d = headerByte s.cfg.dec s.sigIdx then .headerMatch else .headerMismatch
  | .len0 => .firstLength
  | .len1 =>
    if s.cfg.cap ≤ (lenSecond s.cfg.dec.order s.len d).toNat then .lengthRejected else .lengthAccepted
  | .payload =>
    if s.wrPtr.toNat < s.len.toNat ∧ s.len.toNat < s.cfg.cap then .payloadByte else .payloadViolation
  | .footer =>
    if footerMatches s.cfg.dec s.sigIdx d then
      if s.sigIdx.toNat + 1 = s.cfg.dec.ftr.length then .frameComplete else .footerMatch
    else .footerMismatch
  | .illegal5 => .illegalPhase
  | .illegal6 => .illegalPhase
  | .illegal7 => .illegalPhase

/-- R88: the next header byte, or LEN0 after the last one. -/
def byteHeaderMatch (s : State) : State :=
  if s.sigIdx.toNat + 1 = s.cfg.dec.hdr.length then { s with phase := .len0, sigIdx := 0 }
  else { s with sigIdx := s.sigIdx + 1 }

/-- R89: the mismatching byte is itself compared with the first header byte (D3). -/
def byteHeaderMismatch (d : Byte) (s : State) : State :=
  { s with sigIdx := if d = headerByte s.cfg.dec 0 then 1 else 0 }

/-- R90. -/
def byteFirstLength (d : Byte) (s : State) : State :=
  { s with phase := .len1, len := lenFirst s.cfg.dec.order d }

/-- R91 with `L ≥ CAP`: the frame is rejected. -/
def byteLengthRejected (s : State) : State := s.resetRegs

/-- R92: the accepted length `L`. -/
def byteLengthAccepted (d : Byte) (s : State) : State :=
  let L := lenSecond s.cfg.dec.order s.len d
  { s with phase := if L = 0 then .footer else .payload, sigIdx := 0, len := L, wrPtr := 0 }

/-- R93: the byte is stored, whatever its value; reads see the state before the operation. -/
def bytePayload (d : Byte) (s : State) : State :=
  let t := { s.memWrite s.wrPtr.toNat d with wrPtr := s.wrPtr + 1 }
  if s.wrPtr.toNat + 1 = s.len.toNat then { t with phase := .footer, sigIdx := 0 } else t

/-- R94: `Reset()`, the byte discarded (D10). -/
def bytePayloadViolation (s : State) : State := s.resetRegs

/-- R95. -/
def byteFooterMatch (s : State) : State := { s with sigIdx := s.sigIdx + 1 }

/-- R96: back to header search with `frame_ready` set; `len` and `buf` are kept (D6). -/
def byteFrameComplete (s : State) : State :=
  { s with phase := .header, sigIdx := 0, wrPtr := 0, frameReady := true }

/-- R97: `Reset()`, the mismatching byte discarded (D5). -/
def byteFooterMismatch (s : State) : State := s.resetRegs

/-- R98: `Reset()`, the byte discarded (D10). -/
def byteIllegalPhase (s : State) : State := s.resetRegs

/-- The effect of one rule on a state whose `frame_ready` R87 has cleared, with the rule's `done`. -/
def applyByteRule (d : Byte) (s : State) : ByteRule → State
  | .headerMatch => (byteHeaderMatch s).setDone false
  | .headerMismatch => (byteHeaderMismatch d s).setDone false
  | .firstLength => (byteFirstLength d s).setDone false
  | .lengthRejected => (byteLengthRejected s).setDone false
  | .lengthAccepted => (byteLengthAccepted d s).setDone false
  | .payloadByte => (bytePayload d s).setDone false
  | .payloadViolation => (bytePayloadViolation s).setDone false
  | .footerMatch => (byteFooterMatch s).setDone false
  | .frameComplete => (byteFrameComplete s).setDone true
  | .footerMismatch => (byteFooterMismatch s).setDone false
  | .illegalPhase => (byteIllegalPhase s).setDone false

/-- The state after BYTE d (R85): `frame_ready` is cleared first (R87), then the one rule that applies. -/
def byteNext (d : Byte) (s : State) : State := applyByteRule d (s.setReady false) (byteRule d s)

/-- BYTE d (R85). -/
def execByte (d : Byte) (s : State) : Host.Outcome State Fault Refusal := .next (byteNext d s)

/-- RESET (R99): `Reset()`, `done = false`; the buffer is kept. -/
def execReset (s : State) : Host.Outcome State Fault Refusal := .next (s.resetRegs.setDone false)

/-- IDLE (R100): no register changes, `done = false`; `frame_ready` is kept. -/
def execIdle (s : State) : Host.Outcome State Fault Refusal := .next (s.setDone false)

end Sys2Proof.Machine
end

