-- ==== Sys2Proof/Machine/Encoder.lean ====
section
/-! DEFINITION. The encoder's operations ENC and ENCB (spec/41_encoder.md): functions of their inputs and the configuration (R33)
that change nothing but the step's output and, where the caller leaves a payload byte unserved, the counter of free values. -/

namespace Sys2Proof.Machine

/-- BUILD_COMMAND (R120). CapacityError is a result (R121, R139): no bytes, `enc_total = 0`, `enc_err = 1`, whatever is served.
A payload byte that is not served is a free value (log 17). -/
def execEnc (cmd : Word16) (p : PayloadPort) (s : State) : Host.Outcome State Fault Refusal :=
  if capacityExceeded s.cfg p.plen.toNat then .next (s.answer (.frame [] 0 true))
  else
    .next
      ((s.answer
        (.frame (encFrame s.cfg.enc cmd (payBytes s.freeCount p))
          (BitVec.ofNat 17 (encLength s.cfg.enc p.plen.toNat)) false)).countFree (decide (p.served.length < p.plen.toNat)))

/-- ENCB (R122). CapacityError takes precedence over every index (R140); without it an index ≥ T is refused (R124). Only a payload
index asks for a served byte; where it is not served it is a free value (log 17). -/
def execEncb (cmd : Word16) (p : PayloadPort) (j : Index17) (s : State) : Host.Outcome State Fault Refusal :=
  if capacityExceeded s.cfg p.plen.toNat then
    .next (s.answer (.encByte (encPorts s.cfg cmd p.plen.toNat (payData s.freeCount p) j)))
  else if encLength s.cfg.enc p.plen.toNat ≤ j.toNat then .refused .encIndexBeyondFrame
  else
    .next
      ((s.answer (.encByte (encPorts s.cfg cmd p.plen.toNat (payData s.freeCount p) j))).countFree
        (encFieldUnserved p (encSelect s.cfg.enc p.plen.toNat j.toNat)))

end Sys2Proof.Machine
end

