-- ==== Sys2Proof/Machine/PowerOn.lean ====
section
/-! DEFINITION. POR (spec/70_reset_and_hazards.md R155). -/

namespace Sys2Proof.Machine

/-- POR (R155): the registers as after `Reset()`, every buffer cell unwritten, `done = false` (R156). -/
def execPor (s : State) : Host.Outcome State Fault Refusal := .next (s.resetRegs.eraseBuf.setDone false)

end Sys2Proof.Machine
end

