-- ==== Sys2Proof/Machine/ReadOut.lean ====
section
/-! DEFINITION. TAKE (spec/40_decoder.md R101) in its two forms: the whole payload and one read-port access (spec/20_memory.md
R45). It changes no state but the step's output. -/

namespace Sys2Proof.Machine

/-- TAKE_PAYLOAD (R101): exactly `len` bytes, from cell 0. -/
def takeWhole (s : State) : Host.Outcome State Fault Refusal :=
  if s.frameReady = false then .fault (.preconditionError .notReady)
  else if s.cfg.cap < s.len.toNat then .fault (.preconditionError .outOfRange)
  else
    match s.buf.readRange 0 s.len.toNat with
    | some bytes => .next (s.answer (.payload s.len bytes))
    | none => .fault (.preconditionError .unwritten)

/-- One read-port access at `rd_addr` (R101): valid under the same condition plus `rd_addr < len`; an index ≥ CAP is
PRECONDITION_ERROR too (D33). -/
def takePort (a : Addr) (s : State) : Host.Outcome State Fault Refusal :=
  if s.frameReady = false then .fault (.preconditionError .notReady)
  else if s.len.toNat ≤ a.toNat ∨ s.cfg.cap ≤ a.toNat then .fault (.preconditionError .outOfRange)
  else
    match s.rdData a with
    | some b => .next (s.answer (.readData s.len b))
    | none => .fault (.preconditionError .unwritten)

/-- TAKE (R101). -/
def execTake (form : ReadForm) (s : State) : Host.Outcome State Fault Refusal :=
  match form with
  | .whole => takeWhole s
  | .port a => takePort a s

end Sys2Proof.Machine
end

