-- ==== Sys2Proof/Machine/Dispatch.lean ====
section
/-! DEFINITION. One arm per constructor of Instr, each one direct call of its meaning. -/

namespace Sys2Proof.Machine

def exec (i : Instr) (s : State) : Host.Outcome State Fault Refusal :=
  match i with
  | .por => Sys2Proof.Machine.execPor s
  | .reset => Sys2Proof.Machine.execReset s
  | .byte d => Sys2Proof.Machine.execByte d s
  | .idle => Sys2Proof.Machine.execIdle s
  | .take form => Sys2Proof.Machine.execTake form s
  | .enc cmd payload => Sys2Proof.Machine.execEnc cmd payload s
  | .encb cmd payload idx => Sys2Proof.Machine.execEncb cmd payload idx s

end Sys2Proof.Machine
end

