-- ==== Sys2Proof/Machine/Step.lean ====
section
/-! DEFINITION. One step: the host's next operation, decoded and executed (spec/00_scope.md R8). -/

namespace Sys2Proof.Machine

/-- One operation (R8). A configuration that fails R10 is refused: there is no such machine. -/
def step (s : State) : Host.Outcome State Fault Refusal :=
  if s.cfg.wf then
    match decode s.fetch.1 with
    | .ok i => exec i s.fetch.2
    | .error e => .refused (.notAnOperation e)
  else .refused .configRefused

/-- `s` with the host presenting the word `w` next (log 3). -/
def State.withFetchWord (s : State) (nbits w : Nat) : State :=
  { s with input := inputOfWord nbits w :: s.input }

end Sys2Proof.Machine
end

