-- ==== Sys2Proof/Machine/Conditions.lean ====
section
/-! DEFINITION. The conditions of spec/60_exceptions.md R135 with the spec's codes. They label steps; nothing records them (R136). -/

namespace Sys2Proof.Machine

/-- The rows of R135. -/
inductive Condition
  | resyncHeader
  | resyncLength
  | resyncFooter
  | resyncInvariant
  | preconditionError
  | capacityError
  | configRefused
deriving DecidableEq, Repr

/-- The code column of R135; codes 0, 5, 6 and 7 are unused. -/
def Condition.code : Condition → Nat
  | .resyncHeader => 1
  | .resyncLength => 2
  | .resyncFooter => 3
  | .resyncInvariant => 4
  | .preconditionError => 8
  | .capacityError => 9
  | .configRefused => 10

/-- The silent event of one BYTE rule, if it is one (R135: R89, R91, R97, R94, R98). -/
def ByteRule.condition : ByteRule → Option Condition
  | .headerMismatch => some .resyncHeader
  | .lengthRejected => some .resyncLength
  | .footerMismatch => some .resyncFooter
  | .payloadViolation => some .resyncInvariant
  | .illegalPhase => some .resyncInvariant
  | .headerMatch => none
  | .firstLength => none
  | .lengthAccepted => none
  | .payloadByte => none
  | .footerMatch => none
  | .frameComplete => none

/-- Code 8 is the only fault of a run (R137). -/
def Fault.condition : Fault → Condition
  | .preconditionError _ => .preconditionError

/-- Code 9 is a result, shown on `enc_err` (R139). -/
def Result.condition : Result → Option Condition
  | .frame _ _ err => if err then some .capacityError else none
  | .encByte o => if o.err then some .capacityError else none
  | .done _ => none
  | .payload _ _ => none
  | .readData _ _ => none

/-- Code 10 is a refusal (R137); the model's other refusals are no condition of R135. -/
def Refusal.condition : Refusal → Option Condition
  | .configRefused => some .configRefused
  | .encIndexBeyondFrame => none
  | .notAnOperation _ => none
  | _ => none

end Sys2Proof.Machine
end

