-- ==== Sys2Proof/Machine/Pseudo.lean ====
section
/-! DEFINITION. The pseudo-operations FEED, SEND and WAIT (spec/30_encoding.md R72): expansions into operations, without state or
behaviour of their own; and a run of several steps. -/

namespace Sys2Proof.Machine

/-- `FEED bs` (R72): one BYTE per byte; the state after them and the list of their `done` values. -/
def feed : List Byte → State → Host.Outcome (State × List Bool) Fault Refusal
  | [], s => .next (s, [])
  | b :: bs, s =>
    match exec (.byte b) s with
    | .next t =>
      match feed bs t with
      | .next (u, ds) => .next (u, t.frameDone :: ds)
      | .fault r => .fault r
      | .refused r => .refused r
    | .fault r => .fault r
    | .refused r => .refused r

/-- The bytes an ENC has produced (R120); none on CapacityError or after another operation. -/
def Result.frameBytes : Result → List Byte
  | .frame bytes _ _ => bytes
  | .done _ => []
  | .payload _ _ => []
  | .readData _ _ => []
  | .encByte _ => []

/-- `SEND cmd, p` (R72): ENC with every byte of p served, then FEED of the bytes it produced; on CapacityError, whatever
the payload's length, there are none. -/
def send (cmd : Word16) (p : List Byte) (s : State) : Host.Outcome (State × List Bool) Fault Refusal :=
  match exec (.enc cmd (.ofBytes p)) s with
  | .next t => feed t.result.frameBytes t
  | .fault r => .fault r
  | .refused r => .refused r

/-- `WAIT n` (R72): n IDLEs. -/
def wait : Nat → State → Host.Outcome State Fault Refusal
  | 0, s => .next s
  | n + 1, s =>
    match exec .idle s with
    | .next t => wait n t
    | .fault r => .fault r
    | .refused r => .refused r

/-- A run of `n` steps (D31: "a finite sequence of operations"), stopping at the first fault or refusal. It is the host's
`Host.Core.run` on this machine (Laws.Exec, `runSteps_eq_run`). -/
def runSteps : Nat → State → Host.Outcome State Fault Refusal
  | 0, s => .next s
  | n + 1, s =>
    match step s with
    | .next t => runSteps n t
    | .fault r => .fault r
    | .refused r => .refused r

end Sys2Proof.Machine
end

