-- ==== Sys2Proof/Safety.lean ====
section
/-! DEFINITION. What a good state and a safe read are: the invariant of spec/10_state.md R31 with the facts about the buffer that
TAKE rests on, and the read-out window of spec/70_reset_and_hazards.md R159. -/

namespace Sys2Proof.Machine

/-- The cells `0 .. n-1` have been written. -/
def Memory.writtenBelow (m : Memory) (n : Nat) : Prop := ∀ i, i < n → (m.read i).isSome

/-- The state's invariant. The first eight clauses are R10 and R31 (with R22 and R24); the others say that the buffer is in its
canonical form inside 0..CAP-1 (R40), that the current frame's cells are written (R102), and what `frame_ready` means (R25). -/
structure GoodState (s : State) : Prop where
  /-- R10: the configuration is well formed. -/
  cfgWf : s.cfg.wf = true
  /-- `phase ∈ {0..4}` -/
  phaseLegal : s.phase.legal = true
  /-- `sig_idx < H` -/
  sigRange : s.sigIdx.toNat < s.cfg.dec.hdr.length
  /-- `sig_idx = 0` unless phase is HEADER or FOOTER -/
  sigZero : s.phase ≠ .header → s.phase ≠ .footer → s.sigIdx = 0
  /-- `len < CAP` in every phase except LEN1 -/
  lenBound : s.phase ≠ .len1 → s.len.toNat < s.cfg.cap
  /-- `wr_ptr = 0` in phases HEADER, LEN0 and LEN1 -/
  ptrZero : s.phase = .header ∨ s.phase = .len0 ∨ s.phase = .len1 → s.wrPtr = 0
  /-- `wr_ptr < len` in phase PAYLOAD -/
  ptrPayload : s.phase = .payload → s.wrPtr.toNat < s.len.toNat
  /-- `wr_ptr = len` in phase FOOTER -/
  ptrFooter : s.phase = .footer → s.wrPtr.toNat = s.len.toNat
  /-- The buffer's canonical form. -/
  bufWf : s.buf.wf
  /-- Only cells 0..CAP-1 exist. -/
  bufRange : ∀ c ∈ s.buf, c.1 < s.cfg.cap
  /-- The cells this frame has filled so far are written. -/
  filled : s.phase = .payload ∨ s.phase = .footer → s.buf.writtenBelow s.wrPtr.toNat
  /-- `frame_ready` is set only between a completion and the next byte. -/
  readyPhase : s.frameReady = true → s.phase = .header ∧ s.sigIdx = 0
  /-- While `frame_ready` is set the payload's cells are written. -/
  readyFilled : s.frameReady = true → s.buf.writtenBelow s.len.toNat
  /-- A completing BYTE is what sets both flags. -/
  doneReady : s.frameDone = true → s.frameReady = true

/-- The host's read is inside its window (R159, R101): `frame_ready`, and for one read-port access an index below `len`. -/
def ReadAllowed (form : ReadForm) (s : State) : Prop :=
  s.frameReady = true ∧ ∀ a, form = .port a → a.toNat < s.len.toNat

end Sys2Proof.Machine
end

