-- ==== Sys2Proof/Certificates/Slice0/Obligations.lean ====
section
/-! DEFINITION. The statements about the codec for the provers. Every statement about a state is about EVERY state and every
configuration, but for the invariant it names. Where an `exec` equation shows the whole next state, every field not written is
unchanged: that is the frame. -/

open Sys2Proof Sys2Proof.Machine

/-! ## The step, decoding, encoding -/

/-- R8: one operation per step, the host's next one, decoded; what the decoder rejects is refused by name. The list of
presentations is the model's (log 1). -/
def Obligations.StepRunsDecodedOperation : Prop :=
  ∀ (s : State) (x : Input) (rest : List Input), s.cfg.wf = true → s.input = x :: rest →
    (∀ i, decode x = .ok i → i.wf = true ∧ step s = exec i { s with input := rest }) ∧
    (∀ e, decode x = .error e → step s = .refused (.notAnOperation e))

/-- The model's choice (log 2): while the host presents nothing, every step is an IDLE edge (R71, R149). -/
def Obligations.StepIdlesWhenNothingPresented : Prop :=
  ∀ s : State, s.cfg.wf = true → s.input = [] → step s = exec .idle s

/-- Log 3: a DIW word placed by `withFetchWord` is the next operation, and it is the one `decodeTableWord` reads. -/
def Obligations.FetchedWordRuns : Prop :=
  ∀ (s : State) (w : Nat), s.cfg.wf = true → w < 2 ^ 11 →
    decodeTableWord 16 w = some (decodeDiw (BitVec.ofNat 11 w)) ∧
    step (s.withFetchWord 16 w) = exec (decodeDiw (BitVec.ofNat 11 w)) s

/-- R10 (with R9's ranges; condition (5) as log 11 reads it): exactly the configurations that fail it are refused. -/
def Obligations.BadConfigurationRefused : Prop :=
  ∀ s : State,
    step s = .refused .configRefused ↔
      ¬ ((∀ c, c = s.cfg.dec ∨ c = s.cfg.enc →
            2 ≤ c.hdr.length ∧ c.hdr.length ≤ 4 ∧ c.ftr.length = c.hdr.length ∧
            (∀ i j : Nat, i < j → j < c.hdr.length → c.hdr[i]? ≠ c.hdr[j]?) ∧
            ¬ (c.hdr[0]? = some 0x55 ∧ c.hdr[1]? = some 0xA5)) ∧
          32 ≤ s.cfg.cap ∧ s.cfg.cap ≤ 64 ∧ s.cfg.encMaxPayload ≤ 0xFFFD)

/-- R67: the table of DIW patterns, by match and mask, and the canonical encodings. -/
def Obligations.DiwWordSelectsOneOperation : Prop :=
  (∀ w : Diw,
    (w &&& 0x400 = 0x400 → decode (.diw w) = .ok .por) ∧
    (w &&& 0x600 = 0x200 → decode (.diw w) = .ok .reset) ∧
    (w &&& 0x700 = 0x100 → decode (.diw w) = .ok (.byte (w.truncate 8))) ∧
    (w &&& 0x700 = 0x000 → decode (.diw w) = .ok .idle) ∧
    (w &&& 0x400 = 0x400 ∨ w &&& 0x600 = 0x200 ∨ w &&& 0x700 = 0x100 ∨ w &&& 0x700 = 0x000)) ∧
  encode .por = .diw 0x400 ∧ encode .reset = .diw 0x200 ∧ encode .idle = .diw 0x000 ∧
  ∀ d : Byte, encode (.byte d) = .diw (0x100 ||| d.zeroExtend 11)

/-- Five DIW words written out bit by bit from R67's table; then, in the presentations by which the model names the ports of R68
and R69 (log 4), TAKE, ENC and ENCB, the last with fewer bytes served than `enc_plen` asks for (log 17). -/
def Obligations.WrittenWordsDecode : Prop :=
  decode (.diw 0b10000000000) = .ok .por ∧
  decode (.diw 0b01000000000) = .ok .reset ∧
  decode (.diw 0b00111111101) = .ok (.byte 0xFD) ∧
  decode (.diw 0b00000000000) = .ok .idle ∧
  decode (.diw 0b01111111101) = .ok .reset ∧
  decode .readAll = .ok (.take .whole) ∧
  decode (.readPort 0b011111) = .ok (.take (.port 31)) ∧
  decode (.encFrame 0x0061 ⟨2, [0x01, 0x02]⟩) = .ok (.enc 0x0061 ⟨2, [0x01, 0x02]⟩) ∧
  decode (.encByte 0x0061 ⟨2, [0x01, 0x02]⟩ 9) = .ok (.encb 0x0061 ⟨2, [0x01, 0x02]⟩ 9) ∧
  decode (.encFrame 0x0061 ⟨3, [0x01, 0x02]⟩) = .ok (.enc 0x0061 ⟨3, [0x01, 0x02]⟩)

/-- Every instruction is one the ports can present, and is read back from its presentation, with every operand. -/
def Obligations.DecodeOfEncodeIsTheInstruction : Prop :=
  ∀ i : Instr, i.wf = true ∧ decode (encode i) = .ok i

/-- What decodes is well formed; every presentation that is no DIW word, and every BYTE word, is the canonical one. -/
def Obligations.EncodeOfDecodeIsThePresentation : Prop :=
  ∀ (x : Input) (i : Instr), decode x = .ok i →
    i.wf = true ∧ ((∀ w, x ≠ .diw w) → encode i = x) ∧ (∀ d, i = .byte d → encode i = x)

/-- R160: a byte presented with RESET is lost. -/
def Obligations.SoftResetLosesTheByte : Prop :=
  ∀ (s : State) (rest : List Input) (d : Byte), s.cfg.wf = true →
    s.input = .diw (0x300 ||| d.zeroExtend 11) :: rest → step s = exec .reset { s with input := rest }

/-! ## Reset -/

/-- R34: every piece of the decoder's state after POR and after RESET, the configuration fixed; and the state a run starts from
has the same values. -/
def Obligations.ResetValues : Prop :=
  (∀ s : State, ∃ t, exec .por s = .next t ∧
    t.phase.code = 0 ∧ t.sigIdx = 0 ∧ t.len = 0 ∧ t.wrPtr = 0 ∧ t.frameReady = false ∧ t.frameDone = false ∧
    (∀ a, t.buf.read a = none) ∧ t.cfg = s.cfg) ∧
  (∀ s : State, ∃ t, exec .reset s = .next t ∧
    t.phase.code = 0 ∧ t.sigIdx = 0 ∧ t.len = 0 ∧ t.wrPtr = 0 ∧ t.frameReady = false ∧ t.frameDone = false ∧
    (∀ a, t.buf.read a = s.buf.read a) ∧ t.cfg = s.cfg) ∧
  (State.reset.phase.code = 0 ∧ State.reset.sigIdx = 0 ∧ State.reset.len = 0 ∧ State.reset.wrPtr = 0 ∧
    State.reset.frameReady = false ∧ State.reset.frameDone = false ∧ ∀ a, State.reset.buf.read a = none)

/-- R155: POR's encoding (every bit but `rst` is ignored) and its whole effect, in which every cell holds no value. -/
def Obligations.PorEffect : Prop :=
  (∀ w : Diw, w &&& 0x400 = 0x400 → decode (.diw w) = .ok .por) ∧
  ∀ s : State,
    exec .por s = .next
      { s with
        phase := .header, sigIdx := 0, len := 0, wrPtr := 0, frameReady := false, buf := []
        frameDone := false, result := .done false } ∧
    ∀ a, Memory.read [] a = none

/-- R99, R86: RESET's encoding and its whole effect; the buffer is kept. -/
def Obligations.ResetEffect : Prop :=
  (∀ w : Diw, w &&& 0x600 = 0x200 → decode (.diw w) = .ok .reset) ∧
  ∀ s : State, exec .reset s = .next
    { s with
      phase := .header, sigIdx := 0, len := 0, wrPtr := 0, frameReady := false
      frameDone := false, result := .done false }

/-- R156: POR and RESET differ only in the buffer. -/
def Obligations.PorAndResetDifferOnlyInTheBuffer : Prop :=
  ∀ s : State, ∃ p r, exec .por s = .next p ∧ exec .reset s = .next r ∧
    p = { r with buf := p.buf } ∧ (∀ a, p.buf.read a = none) ∧ r.buf = s.buf

/-- R100: IDLE's encoding and its whole effect; `frame_ready` is kept. -/
def Obligations.IdleEffect : Prop :=
  (∀ w : Diw, w &&& 0x700 = 0x000 → decode (.diw w) = .ok .idle) ∧
  ∀ s : State, exec .idle s = .next { s with frameDone := false, result := .done false }

/-! ## BYTE, rule by rule -/

/-- R88: a byte equal to `HDR[sig_idx]`. -/
def Obligations.HeaderByteMatches : Prop :=
  ∀ (s : State) (d : Byte), s.phase = .header → s.cfg.dec.hdr[s.sigIdx.toNat]? = some d →
    exec (.byte d) s = .next
      (if s.sigIdx.toNat + 1 = s.cfg.dec.hdr.length then
        { s with phase := .len0, sigIdx := 0, frameReady := false, frameDone := false, result := .done false }
      else
        { s with sigIdx := s.sigIdx + 1, frameReady := false, frameDone := false, result := .done false })

/-- R89: a byte other than `HDR[sig_idx]` is itself compared with the first header byte. -/
def Obligations.HeaderByteMismatches : Prop :=
  ∀ (s : State) (d h0 h : Byte), s.phase = .header → s.cfg.dec.hdr[0]? = some h0 →
    s.cfg.dec.hdr[s.sigIdx.toNat]? = some h → d ≠ h →
    exec (.byte d) s = .next
      { s with
        sigIdx := if d = h0 then 1 else 0, frameReady := false, frameDone := false, result := .done false }

/-- R90: the first length byte overwrites `len`. -/
def Obligations.FirstLengthByte : Prop :=
  ∀ (s : State) (d : Byte), s.phase = .len0 →
    exec (.byte d) s = .next
      { s with
        phase := .len1
        len := match s.cfg.dec.order with
          | .le => d.zeroExtend 16
          | .be => d.zeroExtend 16 <<< 8
        frameReady := false, frameDone := false, result := .done false }

/-- R91, R92: the second length byte assembles `L`; `L ≥ CAP` resets, else `L` is taken. -/
def Obligations.SecondLengthByte : Prop :=
  ∀ (s : State) (d : Byte) (L : Word16), s.phase = .len1 →
    (s.cfg.dec.order = .le → L = s.len ||| (d.zeroExtend 16 <<< 8)) →
    (s.cfg.dec.order = .be → L = s.len ||| d.zeroExtend 16) →
    (s.cfg.cap ≤ L.toNat →
      exec (.byte d) s = .next
        { s with
          phase := .header, sigIdx := 0, len := 0, wrPtr := 0, frameReady := false
          frameDone := false, result := .done false }) ∧
    (L.toNat < s.cfg.cap →
      exec (.byte d) s = .next
        { s with
          phase := if L = 0 then .footer else .payload
          sigIdx := 0, len := L, wrPtr := 0, frameReady := false, frameDone := false, result := .done false })

/-- R93 with R43: the byte is stored at `wr_ptr`, no other cell changes, and the last payload byte enters FOOTER. -/
def Obligations.PayloadByteStored : Prop :=
  ∀ (s : State) (d : Byte), s.phase = .payload → s.wrPtr.toNat < s.len.toNat → s.len.toNat < s.cfg.cap →
    ∃ t, exec (.byte d) s = .next t ∧
      t = { s with
        phase := if s.wrPtr.toNat + 1 = s.len.toNat then .footer else .payload
        sigIdx := if s.wrPtr.toNat + 1 = s.len.toNat then 0 else s.sigIdx
        wrPtr := s.wrPtr + 1, buf := t.buf, frameReady := false, frameDone := false, result := .done false } ∧
      t.buf.read s.wrPtr.toNat = some d ∧
      ∀ a, a ≠ s.wrPtr.toNat → t.buf.read a = s.buf.read a

/-- R94, R98: the invariant check and the illegal phases reset the registers and discard the byte. -/
def Obligations.CorruptStateRecovers : Prop :=
  ∀ (s : State) (d : Byte),
    (s.phase = .payload ∧ (s.len.toNat ≤ s.wrPtr.toNat ∨ s.cfg.cap ≤ s.len.toNat)) ∨
      (s.phase.code = 5 ∨ s.phase.code = 6 ∨ s.phase.code = 7) →
    exec (.byte d) s = .next
      { s with
        phase := .header, sigIdx := 0, len := 0, wrPtr := 0, frameReady := false
        frameDone := false, result := .done false }

/-- R95: a matching footer byte that is not the last. -/
def Obligations.FooterByteMatches : Prop :=
  ∀ (s : State) (d : Byte), s.phase = .footer → s.cfg.dec.ftr[s.sigIdx.toNat]? = some d →
    s.sigIdx.toNat < s.cfg.dec.ftr.length - 1 →
    exec (.byte d) s = .next
      { s with sigIdx := s.sigIdx + 1, frameReady := false, frameDone := false, result := .done false }

/-- R96: the last footer byte completes the frame; `len` and `buf` are kept. -/
def Obligations.LastFooterByteCompletes : Prop :=
  ∀ (s : State) (d : Byte), s.phase = .footer → s.cfg.dec.ftr[s.sigIdx.toNat]? = some d →
    s.sigIdx.toNat = s.cfg.dec.ftr.length - 1 →
    exec (.byte d) s = .next
      { s with phase := .header, sigIdx := 0, wrPtr := 0, frameReady := true, frameDone := true, result := .done true }

/-- R97: a footer mismatch resets the registers; the byte is no header candidate, and `buf` is kept. -/
def Obligations.FooterByteMismatches : Prop :=
  ∀ (s : State) (d f : Byte), s.phase = .footer → s.cfg.dec.ftr[s.sigIdx.toNat]? = some f → d ≠ f →
    exec (.byte d) s = .next
      { s with
        phase := .header, sigIdx := 0, len := 0, wrPtr := 0, frameReady := false
        frameDone := false, result := .done false }

/-- The model's choices (logs 8, 9): at a `sig_idx` that the signature does not have (R31 excludes it), BYTE in HEADER goes as
R88 or as R89 says, whatever the free header byte is, and BYTE in FOOTER goes as R97 says. -/
def Obligations.IndexBeyondTheSignature : Prop :=
  ∀ (s : State) (d h0 : Byte),
    (s.phase = .header → s.cfg.dec.hdr[0]? = some h0 → s.cfg.dec.hdr.length ≤ s.sigIdx.toNat →
      exec (.byte d) s = .next
        { s with sigIdx := s.sigIdx + 1, frameReady := false, frameDone := false, result := .done false } ∨
      exec (.byte d) s = .next
        { s with
          sigIdx := if d = h0 then 1 else 0, frameReady := false, frameDone := false, result := .done false }) ∧
    (s.phase = .footer → s.cfg.dec.ftr.length ≤ s.sigIdx.toNat →
      exec (.byte d) s = .next
        { s with
          phase := .header, sigIdx := 0, len := 0, wrPtr := 0, frameReady := false
          frameDone := false, result := .done false })

/-- R107 with R85, R87: BYTE is total, and `done` (with `frame_ready`) is true exactly on the last footer byte. -/
def Obligations.ByteIsTotalAndDoneOnlyOnCompletion : Prop :=
  ∀ (s : State) (d : Byte), ∃ t b, exec (.byte d) s = .next t ∧ t.result = .done b ∧ t.frameDone = b ∧ t.frameReady = b ∧
    (b = true ↔
      s.phase = .footer ∧ s.sigIdx.toNat + 1 = s.cfg.dec.ftr.length ∧ s.cfg.dec.ftr[s.sigIdx.toNat]? = some d)

/-- The frame of BYTE: the configuration, the host's operations and the counter of free values are untouched, and the only cell that can change is
`buf[wr_ptr]`, where rule R93 stores; under every other rule no cell changes (R27, R43). -/
def Obligations.ByteFrame : Prop :=
  ∀ (s t : State) (d : Byte), exec (.byte d) s = .next t →
    t.cfg = s.cfg ∧ t.input = s.input ∧ t.freeCount = s.freeCount ∧
    (byteRule d s = .payloadByte → ∀ a, a ≠ s.wrPtr.toNat → t.buf.read a = s.buf.read a) ∧
    (byteRule d s ≠ .payloadByte → ∀ a, t.buf.read a = s.buf.read a) ∧
    (byteRule d s = .payloadByte ↔ s.phase = .payload ∧ s.wrPtr.toNat < s.len.toNat ∧ s.len.toNat < s.cfg.cap)

/-- The frame of TAKE, ENC and ENCB: nothing but the step's output changes, no cell among it (R101, R120; `frame_done` by log 6).
The model's counter of free values (log 17) moves only where ENC or ENCB is not served every payload byte. -/
def Obligations.ReadAndEncodeFrame : Prop :=
  (∀ (s t : State) (f : ReadForm), exec (.take f) s = .next t →
    t = { s with result := t.result } ∧ ∀ a, t.buf.read a = s.buf.read a) ∧
  ∀ (s t : State) (i : Instr) (cmd : Word16) (p : PayloadPort),
    (i = .enc cmd p ∨ ∃ j, i = .encb cmd p j) → exec i s = .next t →
    t = { s with result := t.result, freeCount := t.freeCount } ∧ (∀ a, t.buf.read a = s.buf.read a) ∧
    (p.plen.toNat ≤ p.served.length → t.freeCount = s.freeCount)

/-- R135, R136, R142: a silent event leaves nothing behind but HEADER and `done = false`; each BYTE has at most one (R140). -/
def Obligations.SilentEventsOnlyResynchronise : Prop :=
  ∀ (s : State) (d : Byte) (e : Condition), (byteRule d s).condition = some e →
    (e.code = 1 ∨ e.code = 2 ∨ e.code = 3 ∨ e.code = 4) ∧
    ∃ t, exec (.byte d) s = .next t ∧ t.phase = .header ∧ t.frameDone = false ∧ t.frameReady = false ∧
      t.buf = s.buf ∧
      (e.code = 1 ↔ s.phase = .header) ∧ (e.code = 2 ↔ s.phase = .len1) ∧ (e.code = 3 ↔ s.phase = .footer)

/-- R135, codes 8 to 10: a fault of a meaning is PRECONDITION_ERROR, raised by TAKE only; CapacityError is a result; a bad
configuration is a refusal. -/
def Obligations.ErrorOutcomesCarryTheirCodes : Prop :=
  (∀ (i : Instr) (s : State) (r : Fault), exec i s = .fault r → r.condition.code = 8 ∧ ∃ f, i = .take f) ∧
  (∀ (s : State) (cmd : Word16) (p : PayloadPort), s.cfg.encMaxPayload < p.plen.toNat →
    ∃ t, exec (.enc cmd p) s = .next t ∧ t.result.condition.map Condition.code = some 9) ∧
  ∀ s : State, s.cfg.wf = false → ∃ r, step s = .refused r ∧ r.condition.map Condition.code = some 10

/-! ## Flags -/

/-- R25: what sets, clears and keeps `frame_ready`. -/
def Obligations.FrameReadyRule : Prop :=
  ∀ (i : Instr) (s t : State), exec i s = .next t →
    match i with
    | .byte d =>
      (t.frameReady = true ↔ t.frameDone = true) ∧
      (t.frameReady = true ↔
        s.phase = .footer ∧ s.sigIdx.toNat + 1 = s.cfg.dec.ftr.length ∧ s.cfg.dec.ftr[s.sigIdx.toNat]? = some d)
    | .por | .reset => t.frameReady = false
    | .idle | .take _ | .enc _ _ | .encb _ _ _ => t.frameReady = s.frameReady

/-- R26, R163: `frame_done` after each operation; TAKE, ENC and ENCB take no clock edge (log 6). -/
def Obligations.FrameDoneRule : Prop :=
  ∀ (i : Instr) (s t : State), exec i s = .next t →
    match i with
    | .byte _ => t.result = .done t.frameDone
    | .por | .reset | .idle => t.frameDone = false ∧ t.result = .done false
    | .take _ | .enc _ _ | .encb _ _ _ => t.frameDone = s.frameDone

/-- R165, R149: idle clocks are invisible to every later operation. A clocked operation gives the same state as without them; TAKE,
ENC and ENCB stop where they stop without them and else answer the same output, a free payload byte (log 17) included. -/
def Obligations.IdleClocksAreInvisible : Prop :=
  ∀ (n : Nat) (s : State), ∃ u, wait n s = .next u ∧
    (∀ d, exec (.byte d) u = exec (.byte d) s) ∧ exec .reset u = exec .reset s ∧ exec .por u = exec .por s ∧
    exec .idle u = exec .idle s ∧
    (∀ f t, exec (.take f) s = .next t → exec (.take f) u = .next { u with result := t.result }) ∧
    (∀ f r, exec (.take f) s = .fault r ↔ exec (.take f) u = .fault r) ∧
    (∀ cmd p, ∃ r n, exec (.enc cmd p) s = .next { s with result := r, freeCount := n } ∧
      exec (.enc cmd p) u = .next { u with result := r, freeCount := n }) ∧
    ∀ cmd p j,
      (∃ r n, exec (.encb cmd p j) s = .next { s with result := r, freeCount := n } ∧
        exec (.encb cmd p j) u = .next { u with result := r, freeCount := n }) ∨
      (exec (.encb cmd p j) s = .refused .encIndexBeyondFrame ∧
        exec (.encb cmd p j) u = .refused .encIndexBeyondFrame)

/-! ## TAKE -/

/-- R101: inside its window TAKE of the whole payload answers `payload_len` and exactly `len` bytes, the cells' own. -/
def Obligations.TakeReturnsThePayload : Prop :=
  ∀ s : State, s.frameReady = true → s.len.toNat ≤ s.cfg.cap → s.buf.writtenBelow s.len.toNat →
    ∃ bytes, exec (.take .whole) s = .next { s with result := .payload s.len bytes } ∧
      bytes.length = s.len.toNat ∧ ∀ i, i < s.len.toNat → bytes[i]? = s.buf.read i

/-- R101, R45: one read-port access inside the window answers the cell's byte. -/
def Obligations.ReadPortReturnsTheCell : Prop :=
  ∀ (s : State) (a : Addr) (b : Byte), s.frameReady = true → a.toNat < s.len.toNat → a.toNat < s.cfg.cap →
    s.buf.read a.toNat = some b →
    exec (.take (.port a)) s = .next { s with result := .readData s.len b } ∧ s.rdData a = some b

/-- Every read outside the window, at an index that is not there, or of an unwritten cell is PRECONDITION_ERROR, with its reason:
R101 and R138 for the first two clauses (D33 for an address at or above CAP), R52 for the unwritten cell. The last clause, TAKE of
the whole payload in a state with `len > CAP`, which no run reaches, is the model's reading (log 10). -/
def Obligations.ReadOutsideTheWindowFaults : Prop :=
  ∀ s : State,
    (s.frameReady = false → ∀ f, exec (.take f) s = .fault (.preconditionError .notReady)) ∧
    (s.frameReady = true → ∀ a : Addr, s.len.toNat ≤ a.toNat ∨ s.cfg.cap ≤ a.toNat →
      exec (.take (.port a)) s = .fault (.preconditionError .outOfRange)) ∧
    (s.frameReady = true → ∀ a : Addr, a.toNat < s.len.toNat → a.toNat < s.cfg.cap → s.buf.read a.toNat = none →
      exec (.take (.port a)) s = .fault (.preconditionError .unwritten)) ∧
    (s.frameReady = true → s.len.toNat ≤ s.cfg.cap → ∀ i, i < s.len.toNat → s.buf.read i = none →
      exec (.take .whole) s = .fault (.preconditionError .unwritten)) ∧
    (s.frameReady = true → s.cfg.cap < s.len.toNat → exec (.take .whole) s = .fault (.preconditionError .outOfRange))

/-- R45: the hardware read port's value, and that a read can be repeated any number of times. -/
def Obligations.ReadPortValue : Prop :=
  (∀ (s : State) (a : Addr),
    (a.toNat < s.cfg.cap → s.rdData a = s.buf.read a.toNat) ∧ (s.cfg.cap ≤ a.toNat → s.rdData a = some 0x00)) ∧
  ∀ (s t : State) (f : ReadForm), exec (.take f) s = .next t →
    t = { s with result := t.result } ∧ exec (.take f) t = .next t

/-- R159: the window stays open through idle clocks, reads and encoder operations, and closes with the next RESET, POR or
BYTE that does not itself complete a frame. -/
def Obligations.ReadWindow : Prop :=
  ∀ (s t r : State) (i : Instr), exec (.take .whole) s = .next r → exec i s = .next t →
    match i with
    | .idle | .take _ | .enc _ _ | .encb _ _ _ => exec (.take .whole) t = .next { t with result := r.result }
    | .reset | .por => exec (.take .whole) t = .fault (.preconditionError .notReady)
    | .byte _ => t.frameDone = false → exec (.take .whole) t = .fault (.preconditionError .notReady)

/-! ## The encoder -/

/-- R120: the frame BUILD_COMMAND produces, its length, and `enc_total`. The payload has P = `enc_plen` bytes, each the one the caller
serves; a byte it does not serve can be any (log 17), and where all are served the payload is they and nothing else changes. -/
def Obligations.EncBuildsTheFrame : Prop :=
  ∀ (s : State) (cmd : Word16) (p : PayloadPort), s.cfg.wf = true → p.plen.toNat ≤ s.cfg.encMaxPayload →
    ∃ bytes out total n,
      exec (.enc cmd p) s = .next { s with result := .frame out total false, freeCount := n } ∧
      bytes.length = p.plen.toNat ∧ (∀ k b, k < p.plen.toNat → p.served[k]? = some b → bytes[k]? = some b) ∧
      (p.plen.toNat ≤ p.served.length → bytes = p.served.take p.plen.toNat ∧ n = s.freeCount) ∧
      out = s.cfg.enc.hdr ++ ser16 s.cfg.enc.order (BitVec.ofNat 16 (2 + bytes.length)) ++ ser16 s.cfg.enc.order cmd ++ bytes
        ++ s.cfg.enc.ftr ∧
      out.length = s.cfg.enc.hdr.length + 4 + bytes.length + s.cfg.enc.ftr.length ∧
      total.toNat = out.length ∧ (BitVec.ofNat 16 (2 + bytes.length)).toNat = 2 + bytes.length

/-- R121, R139, R140: CapacityError is a result: no bytes, `enc_total = 0`, `enc_valid = 0` at every index, `enc_err = 1`,
whatever the caller serves, and nothing else changes. -/
def Obligations.CapacityErrorIsAResult : Prop :=
  ∀ (s : State) (cmd : Word16) (p : PayloadPort), s.cfg.encMaxPayload < p.plen.toNat →
    exec (.enc cmd p) s = .next { s with result := .frame [] 0 true } ∧
    ∀ j, ∃ o, exec (.encb cmd p j) s = .next { s with result := .encByte o } ∧
      o.total = 0 ∧ o.valid = false ∧ o.err = true

/-- R122, R120: inside the frame ENCB completes and agrees with BUILD_COMMAND byte for byte, and it requests payload byte
`j - H - 4` exactly where the payload stands. A payload byte that is not served is the same free value in both (log 17); at every
other index, and where the byte is served, no free value is drawn. -/
def Obligations.EncbAgreesWithEnc : Prop :=
  ∀ (s : State) (cmd : Word16) (p : PayloadPort) (j : Index17), p.plen.toNat ≤ s.cfg.encMaxPayload →
    j.toNat < s.cfg.enc.hdr.length + 4 + p.plen.toNat + s.cfg.enc.ftr.length →
    ∃ out total b n m,
      exec (.enc cmd p) s = .next { s with result := .frame out total false, freeCount := n } ∧
      out[j.toNat]? = some b ∧
      exec (.encb cmd p j) s = .next
        { s with
          freeCount := m
          result := .encByte
            { byte := b
              payAddr :=
                if s.cfg.enc.hdr.length + 4 ≤ j.toNat ∧ j.toNat < s.cfg.enc.hdr.length + 4 + p.plen.toNat then
                  BitVec.ofNat 16 (j.toNat - s.cfg.enc.hdr.length - 4)
                else 0
              total := total, valid := true, err := false } } ∧
      (m = s.freeCount ∨
        s.cfg.enc.hdr.length + 4 + p.served.length ≤ j.toNat ∧ j.toNat < s.cfg.enc.hdr.length + 4 + p.plen.toNat)

/-- R124: an index beyond the frame is refused; the hardware's port values there are 0x00 and `enc_valid = 0`. -/
def Obligations.EncbBeyondTheFrameRefused : Prop :=
  ∀ (s : State) (cmd : Word16) (p : PayloadPort) (j : Index17), p.plen.toNat ≤ s.cfg.encMaxPayload →
    s.cfg.enc.hdr.length + 4 + p.plen.toNat + s.cfg.enc.ftr.length ≤ j.toNat →
    exec (.encb cmd p j) s = .refused .encIndexBeyondFrame ∧
    ∀ pay, (encPorts s.cfg cmd p.plen.toNat pay j).byte = 0x00 ∧ (encPorts s.cfg cmd p.plen.toNat pay j).valid = false

/-- R123: `enc_total` and `enc_valid` at every index, whatever stands on the payload port. -/
def Obligations.EncTotalAndValid : Prop :=
  ∀ (c : Config) (cmd plen : Word16) (pay : Nat → Byte) (j : Index17), c.wf = true →
    (plen.toNat ≤ c.encMaxPayload →
      (encPorts c cmd plen.toNat pay j).total.toNat = c.enc.hdr.length + 4 + plen.toNat + c.enc.ftr.length ∧
      ((encPorts c cmd plen.toNat pay j).valid = true ↔ j.toNat < (encPorts c cmd plen.toNat pay j).total.toNat)) ∧
    (c.encMaxPayload < plen.toNat →
      (encPorts c cmd plen.toNat pay j).total = 0 ∧ (encPorts c cmd plen.toNat pay j).valid = false)

/-- R33, R2: what the encoder answers depends on its inputs and its configuration alone, whatever the decoder's state, the
decoder's class and CAP. The payload port is an input: the two states see the same bytes on it where every byte is served, or where
the counter of free values is the same (log 17). -/
def Obligations.EncoderSeesOnlyItsInputs : Prop :=
  ∀ (s s' : State) (cmd : Word16) (p : PayloadPort), s.cfg.enc = s'.cfg.enc →
    s.cfg.encMaxPayload = s'.cfg.encMaxPayload → (p.plen.toNat ≤ p.served.length ∨ s.freeCount = s'.freeCount) →
    (∃ r n n', exec (.enc cmd p) s = .next { s with result := r, freeCount := n } ∧
      exec (.enc cmd p) s' = .next { s' with result := r, freeCount := n' }) ∧
    ∀ j,
      (∃ r n n', exec (.encb cmd p j) s = .next { s with result := r, freeCount := n } ∧
        exec (.encb cmd p j) s' = .next { s' with result := r, freeCount := n' }) ∨
      (exec (.encb cmd p j) s = .refused .encIndexBeyondFrame ∧
        exec (.encb cmd p j) s' = .refused .encIndexBeyondFrame)

/-- R63, R13: the length field's two bytes in either order, and that `ser16` is what assembles back to the value. -/
def Obligations.LengthFieldAssembly : Prop :=
  (∀ b0 b1 : Byte,
    (lenSecond .le (lenFirst .le b0) b1).toNat = b0.toNat + 256 * b1.toNat ∧
    (lenSecond .be (lenFirst .be b0) b1).toNat = 256 * b0.toNat + b1.toNat) ∧
  ∀ (o : ByteOrder) (v : Word16), ∃ b0 b1, ser16 o v = [b0, b1] ∧ lenSecond o (lenFirst o b0) b1 = v

/-! ## Invariants and whole-machine rules -/

/-- The invariant holds after POR, of every well-formed configuration and of the model's reset state. -/
def Obligations.InvariantAtReset : Prop :=
  (∀ c : Config, c.wf = true → GoodState (State.resetWith c)) ∧ GoodState State.reset

/-- Every step keeps the invariant (R31, R40, R43, R102). -/
def Obligations.EveryStepKeepsTheInvariant : Prop :=
  ∀ s t : State, GoodState s → step s = .next t → GoodState t

/-- R31, which the spec derives from its rules: the ranges in every state that a run from POR reaches, whatever the host
presents. -/
def Obligations.ReachableStatesAreInRange : Prop :=
  ∀ (c : Config) (ops : List Input) (n : Nat) (t : State), c.wf = true →
    runSteps n { State.resetWith c with input := ops } = .next t →
    t.phase.code.toNat ≤ 4 ∧ t.sigIdx.toNat < c.dec.hdr.length ∧
    (t.phase ≠ .header → t.phase ≠ .footer → t.sigIdx = 0) ∧
    (t.phase ≠ .len1 → t.len.toNat < c.cap) ∧
    (t.phase = .header ∨ t.phase = .len0 ∨ t.phase = .len1 → t.wrPtr = 0) ∧
    (t.phase = .payload → t.wrPtr.toNat < t.len.toNat) ∧
    (t.phase = .footer → t.wrPtr.toNat = t.len.toNat) ∧
    t.wrPtr.toNat ≤ t.len.toNat

/-- R137, R138: in a good state the only thing that faults is a read outside its window. -/
def Obligations.OnlyReadsOutsideTheWindowFault : Prop :=
  ∀ (s : State) (i : Instr), GoodState s →
    ((∃ r, exec i s = .fault r) ↔ ∃ f, i = .take f ∧ ¬ ReadAllowed f s)

/-- No meaning refuses but ENCB beyond the frame (R124). -/
def Obligations.OnlyEncbBeyondTheFrameRefuses : Prop :=
  ∀ (s : State) (i : Instr),
    ((∃ r, exec i s = .refused r) ↔
      ∃ cmd p j, i = .encb cmd p j ∧ p.plen.toNat ≤ s.cfg.encMaxPayload ∧
        s.cfg.enc.hdr.length + 4 + p.plen.toNat + s.cfg.enc.ftr.length ≤ j.toNat)

/-- R30, R50: nothing writes the configuration. -/
def Obligations.ConfigurationNeverChanges : Prop :=
  ∀ (n : Nat) (s t : State), runSteps n s = .next t → t.cfg = s.cfg

/-- R72: the steps of a run over presented bytes are FEED of those bytes. -/
def Obligations.RunOverBytesIsFeed : Prop :=
  ∀ (bs : List Byte) (s : State) (rest : List Input), s.cfg.wf = true →
    s.input = (bs.map fun b => encode (.byte b)) ++ rest →
    ∃ t ds, feed bs { s with input := rest } = .next (t, ds) ∧ runSteps bs.length s = .next t ∧ ds.length = bs.length

/-! ## Frames -/

/-- R60, R64, R102, R105: from header search, at any `sig_idx`, every frame of an admitted length completes on its last byte and
only there, and TAKE then answers its payload. -/
def Obligations.EveryFrameCompletes : Prop :=
  ∀ (s : State) (p : List Byte), GoodState s → s.phase = .header → p.length < s.cfg.cap →
    ∃ t, feed (s.cfg.dec.hdr ++ ser16 s.cfg.dec.order (BitVec.ofNat 16 p.length) ++ p ++ s.cfg.dec.ftr) s =
        .next (t, List.replicate (s.cfg.dec.hdr.length + 2 + p.length + s.cfg.dec.ftr.length - 1) false ++ [true]) ∧
      t.phase = .header ∧ t.frameReady = true ∧ t.len.toNat = p.length ∧
      exec (.take .whole) t = .next { t with result := .payload t.len p }

/-- R102, the other direction: where a byte completes a frame, the bytes consumed since the decoder last stood at the start of a
header search end with exactly that frame, of length below CAP, and its payload is what TAKE answers. -/
def Obligations.CompletionOnlyOnAWholeFrame : Prop :=
  ∀ (s t : State) (bs : List Byte) (ds : List Bool), GoodState s → s.phase = .header → s.sigIdx = 0 → bs ≠ [] →
    feed bs s = .next (t, ds) → t.frameDone = true →
    ∃ pre p : List Byte, p.length < s.cfg.cap ∧
      bs = pre ++ s.cfg.dec.hdr ++ ser16 s.cfg.dec.order (BitVec.ofNat 16 p.length) ++ p ++ s.cfg.dec.ftr ∧
      exec (.take .whole) t = .next { t with result := .payload t.len p }

/-- R103: a stream in which the header never appears contiguously never leaves HEADER, completes nothing and writes nothing.
The header bytes matched so far (`sig_idx` of them) count as part of the stream. -/
def Obligations.NoiseNeverLeavesTheHeaderSearch : Prop :=
  ∀ (s : State) (bs : List Byte), GoodState s → s.phase = .header →
    ¬ (s.cfg.dec.hdr <:+: s.cfg.dec.hdr.take s.sigIdx.toNat ++ bs) →
    ∃ t, feed bs s = .next (t, List.replicate bs.length false) ∧ t.phase = .header ∧ t.buf = s.buf

/-- R106: after any bytes consumed in HEADER, `sig_idx` is the length of the longest proper part of `HDR`'s beginning that ends
them, and `HDR` then reaches LEN0. -/
def Obligations.HeaderSearchIsExact : Prop :=
  ∀ (s t : State) (bs : List Byte) (ds : List Bool), GoodState s → s.phase = .header → s.sigIdx = 0 →
    ¬ (s.cfg.dec.hdr <:+: bs) → feed bs s = .next (t, ds) →
    (s.cfg.dec.hdr.take t.sigIdx.toNat <:+ bs ∧
      ∀ k, t.sigIdx.toNat < k → k < s.cfg.dec.hdr.length → ¬ (s.cfg.dec.hdr.take k <:+ bs)) ∧
    ∃ u, feed s.cfg.dec.hdr t = .next (u, List.replicate s.cfg.dec.hdr.length false) ∧ u.phase = .len0 ∧ u.sigIdx = 0

/-- R104: a declared length that meets or exceeds CAP returns the decoder to the start of a header search on its second byte,
without a write; the frame is never reported. -/
def Obligations.OversizeLengthRejected : Prop :=
  ∀ (s : State) (v : Word16), GoodState s → s.phase = .header → s.cfg.cap ≤ v.toNat →
    ∃ t, feed (s.cfg.dec.hdr ++ ser16 s.cfg.dec.order v) s =
        .next (t, List.replicate (s.cfg.dec.hdr.length + 2) false) ∧
      t = { s with
        phase := .header, sigIdx := 0, len := 0, wrPtr := 0, frameReady := false
        frameDone := false, result := .done false }

/-- R125: the round trip. A decoder and an encoder of one class, a payload with `P ≤ ENC_MAX_PAYLOAD` and `P ≤ CAP - 3`: SEND
completes on its last byte only, and TAKE answers the command word and the payload. -/
def Obligations.EncodeThenDecodeRoundTrip : Prop :=
  ∀ (s : State) (cmd : Word16) (p : List Byte), GoodState s → s.cfg.dec = s.cfg.enc → s.phase = .header →
    p.length ≤ s.cfg.encMaxPayload → p.length ≤ s.cfg.cap - 3 →
    ∃ t, send cmd p s =
        .next (t, List.replicate (s.cfg.enc.hdr.length + 4 + p.length + s.cfg.enc.ftr.length - 1) false ++ [true]) ∧
      exec (.take .whole) t = .next { t with result := .payload t.len (ser16 s.cfg.enc.order cmd ++ p) }

/-- R125, the bound's other side (C1): with `P ≥ CAP - 2` the decoder rejects the encoder's frame at its second length byte. -/
def Obligations.RoundTripBoundIsSharp : Prop :=
  ∀ (s : State) (cmd : Word16) (p : List Byte), GoodState s → s.cfg.dec = s.cfg.enc → s.phase = .header →
    p.length ≤ s.cfg.encMaxPayload → s.cfg.cap - 2 ≤ p.length →
    ∃ r out total t, exec (.enc cmd (.ofBytes p)) s = .next r ∧ r.result = .frame out total false ∧
      feed (out.take (s.cfg.dec.hdr.length + 2)) r = .next (t, List.replicate (s.cfg.dec.hdr.length + 2) false) ∧
      t = { s with
        phase := .header, sigIdx := 0, len := 0, wrPtr := 0, frameReady := false
        frameDone := false, result := .done false }

/-- R120, R121, R72: ENC cmd, p as the spec writes it, for a payload `p` of ANY length. With P ≤ ENC_MAX_PAYLOAD it is the frame of `p`
and its byte count; with P > ENC_MAX_PAYLOAD, however long (what `enc_plen` shows for P > 0xFFFF is log 18's), it produces no bytes,
and SEND feeds none. -/
def Obligations.EncAndSendOfAnyPayload : Prop :=
  ∀ (s : State) (cmd : Word16) (p : List Byte), s.cfg.wf = true →
    (p.length ≤ s.cfg.encMaxPayload →
      ∃ total, exec (.enc cmd (.ofBytes p)) s = .next
          { s with
            result := .frame
              (s.cfg.enc.hdr ++ ser16 s.cfg.enc.order (BitVec.ofNat 16 (2 + p.length)) ++ ser16 s.cfg.enc.order cmd ++ p
                ++ s.cfg.enc.ftr) total false } ∧
        total.toNat = s.cfg.enc.hdr.length + 4 + p.length + s.cfg.enc.ftr.length) ∧
    (s.cfg.encMaxPayload < p.length →
      exec (.enc cmd (.ofBytes p)) s = .next { s with result := .frame [] 0 true } ∧
      send cmd p s = .next ({ s with result := .frame [] 0 true }, []))
end

