-- ==== Sys2Proof/Laws/Config.lean ====
section
/-! SUPPORT. What a well-formed configuration gives (spec/00_scope.md R10). -/

namespace Sys2Proof

theorem FrameClass.wf_iff (c : FrameClass) :
    c.wf = true ↔ 2 ≤ c.hdr.length ∧ c.hdr.length ≤ 4 ∧ c.ftr.length = c.hdr.length ∧ c.hdr.Nodup ∧ c.third = false := by
  simp [FrameClass.wf, and_assoc]

theorem Config.wf_iff (c : Config) :
    c.wf = true ↔
      c.dec.wf = true ∧ c.enc.wf = true ∧ 32 ≤ c.cap ∧ c.cap ≤ 64 ∧ c.encMaxPayload ≤ 0xFFFD := by
  simp [Config.wf, and_assoc]

/-- In a well-formed class only the byte at `i` equals the header byte at `i`. -/
theorem FrameClass.hdr_injective {c : FrameClass} (h : c.wf = true) {i j : Nat} (hi : i < c.hdr.length)
    (hij : c.hdr[i]? = c.hdr[j]?) : i = j :=
  (List.getElem?_inj hi ((c.wf_iff.mp h).2.2.2.1)).mp hij

end Sys2Proof
end

