-- ==== Sys2Proof/Laws/Memory.lean ====
section
/-! SUPPORT. The laws of the receive buffer: read after write, the canonical form, and what a range read answers. -/

namespace Sys2Proof.Machine

@[simp] theorem Memory.read_nil (a : Nat) : Memory.read [] a = none := rfl

/-- The cell written reads as the byte written (R43). -/
@[simp] theorem Memory.read_write_same (m : Memory) (a : Nat) (b : Byte) : (m.write a b).read a = some b := by
  induction m with
  | nil => simp [Memory.write, Memory.read]
  | cons c rest ih =>
    by_cases h1 : a < c.1
    · simp [Memory.write, Memory.read, h1]
    · by_cases h2 : c.1 = a
      · simp [Memory.write, Memory.read, h2]
      · simp [Memory.write, Memory.read, h1, h2, ih]

/-- A write "changes no other cell" (R43). -/
theorem Memory.read_write_other (m : Memory) {a a' : Nat} (b : Byte) (h : a' ≠ a) :
    (m.write a b).read a' = m.read a' := by
  induction m with
  | nil => simp [Memory.write, Memory.read, Memory.unlisted, Ne.symm h]
  | cons c rest ih =>
    by_cases h1 : a < c.1
    · simp [Memory.write, Memory.read, h1, Ne.symm h]
    · by_cases h2 : c.1 = a
      · subst h2
        simp [Memory.write, Memory.read, Ne.symm h]
      · simp [Memory.write, Memory.read, h1, h2, ih]

/-- Every entry after a write is the written one or an old one. -/
theorem Memory.mem_write {m : Memory} {a : Nat} {b : Byte} {c : Host.Cell} (h : c ∈ m.write a b) :
    c = (a, b) ∨ c ∈ m := by
  induction m with
  | nil => simpa [Memory.write] using h
  | cons d rest ih =>
    by_cases h1 : a < d.1
    · simpa [Memory.write, h1] using h
    · by_cases h2 : d.1 = a
      · have hw : Memory.write (d :: rest) a b = (a, b) :: rest := by simp [Memory.write, h2]
        rcases List.mem_cons.mp (hw ▸ h) with h | h
        · exact .inl h
        · exact .inr (by simp [h])
      · simp only [Memory.write, h1, h2, if_false, List.mem_cons] at h
        rcases h with h | h
        · exact .inr (by simp [h])
        · rcases ih h with h | h
          · exact .inl h
          · exact .inr (by simp [h])

/-- A write keeps the canonical form. -/
theorem Memory.write_wf {m : Memory} (hm : m.wf) (a : Nat) (b : Byte) : (m.write a b).wf := by
  induction m with
  | nil => simp [Memory.wf, Memory.write]
  | cons d rest ih =>
    obtain ⟨hd, hr⟩ := List.pairwise_cons.mp hm
    by_cases h1 : a < d.1
    · simp only [Memory.write, h1, if_true]
      refine List.pairwise_cons.mpr ⟨fun x hx => ?_, hm⟩
      rcases List.mem_cons.mp hx with hx | hx
      · subst hx; exact h1
      · exact Nat.lt_trans h1 (hd x hx)
    · by_cases h2 : d.1 = a
      · have hw : Memory.write (d :: rest) a b = (a, b) :: rest := by simp [Memory.write, h2]
        rw [hw]
        exact List.pairwise_cons.mpr ⟨fun x hx => by have := hd x hx; rwa [h2] at this, hr⟩
      · simp only [Memory.write, h1, h2, if_false]
        refine List.pairwise_cons.mpr ⟨fun x hx => ?_, ih hr⟩
        rcases Memory.mem_write hx with hx | hx
        · subst hx
          show d.1 < a
          omega
        · exact hd x hx

/-- A write keeps every index below a bound. -/
theorem Memory.write_range {m : Memory} {n a : Nat} (hm : ∀ c ∈ m, c.1 < n) (ha : a < n) (b : Byte) :
    ∀ c ∈ m.write a b, c.1 < n := by
  intro c hc
  rcases Memory.mem_write hc with h | h
  · subst h; exact ha
  · exact hm c h

/-- What a range read answers: `n` bytes, the cells' own, in order. -/
theorem Memory.readRange_spec (m : Memory) (n i : Nat) (bs : List Byte) :
    m.readRange i n = some bs ↔ bs.length = n ∧ ∀ k, k < n → m.read (i + k) = bs[k]? := by
  induction n generalizing i bs with
  | zero =>
    simp only [Memory.readRange, Option.some.injEq, Nat.not_lt_zero, false_imp_iff, implies_true, and_true]
    exact ⟨fun h => by simp [← h], fun h => (List.eq_nil_of_length_eq_zero h).symm⟩
  | succ n ih =>
    constructor
    · intro h
      cases h0 : m.read i with
      | none => simp [Memory.readRange, h0] at h
      | some b =>
        cases h1 : m.readRange (i + 1) n with
        | none => simp [Memory.readRange, h0, h1] at h
        | some cs =>
          have hb : b :: cs = bs := by simpa [Memory.readRange, h0, h1] using h
          obtain ⟨hl, hr⟩ := (ih (i + 1) cs).mp h1
          subst hb
          refine ⟨by simp [hl], fun k hk => ?_⟩
          cases k with
          | zero => simpa using h0
          | succ k =>
            have := hr k (by omega)
            simpa [Nat.add_assoc, Nat.add_comm 1 k] using this
    · rintro ⟨hl, hr⟩
      cases bs with
      | nil => simp at hl
      | cons b cs =>
        have h0 : m.read i = some b := by simpa using hr 0 (by omega)
        have h1 : m.readRange (i + 1) n = some cs := by
          refine (ih (i + 1) cs).mpr ⟨by simpa using hl, fun k hk => ?_⟩
          have := hr (k + 1) (by omega)
          simpa [Nat.add_assoc, Nat.add_comm 1 k] using this
        simp [Memory.readRange, h0, h1]

/-- A range read has an answer exactly where every cell of the range has a value. -/
theorem Memory.readRange_isSome (m : Memory) (n i : Nat) :
    (m.readRange i n).isSome = true ↔ ∀ k, k < n → (m.read (i + k)).isSome = true := by
  induction n generalizing i with
  | zero => simp [Memory.readRange]
  | succ n ih =>
    constructor
    · intro h k hk
      cases h0 : m.read i with
      | none => simp [Memory.readRange, h0] at h
      | some b =>
        cases h1 : m.readRange (i + 1) n with
        | none => simp [Memory.readRange, h0, h1] at h
        | some cs =>
          cases k with
          | zero => simp [h0]
          | succ k =>
            have := (ih (i + 1)).mp (by simp [h1]) k (by omega)
            simpa [Nat.add_assoc, Nat.add_comm 1 k] using this
    · intro h
      obtain ⟨b, h0⟩ := Option.isSome_iff_exists.mp (by simpa using h 0 (by omega))
      obtain ⟨cs, h1⟩ := Option.isSome_iff_exists.mp ((ih (i + 1)).mpr fun k hk => by
        have := h (k + 1) (by omega)
        simpa [Nat.add_assoc, Nat.add_comm 1 k] using this)
      simp [Memory.readRange, h0, h1]

end Sys2Proof.Machine
end

