-- ==== Sys2Proof/Laws/State.lean ====
section
/-! SUPPORT. One lemma per field per named update of State, true by rfl, so that no proof unfolds a record update. -/

namespace Sys2Proof.Machine

@[simp] theorem State.memWrite_cfg (s : State) (i : Nat) (b : Byte) : (s.memWrite i b).cfg = s.cfg := rfl
@[simp] theorem State.memWrite_phase (s : State) (i : Nat) (b : Byte) : (s.memWrite i b).phase = s.phase := rfl
@[simp] theorem State.memWrite_sigIdx (s : State) (i : Nat) (b : Byte) : (s.memWrite i b).sigIdx = s.sigIdx := rfl
@[simp] theorem State.memWrite_len (s : State) (i : Nat) (b : Byte) : (s.memWrite i b).len = s.len := rfl
@[simp] theorem State.memWrite_wrPtr (s : State) (i : Nat) (b : Byte) : (s.memWrite i b).wrPtr = s.wrPtr := rfl
@[simp] theorem State.memWrite_frameReady (s : State) (i : Nat) (b : Byte) : (s.memWrite i b).frameReady = s.frameReady := rfl
@[simp] theorem State.memWrite_frameDone (s : State) (i : Nat) (b : Byte) : (s.memWrite i b).frameDone = s.frameDone := rfl
@[simp] theorem State.memWrite_buf (s : State) (i : Nat) (b : Byte) : (s.memWrite i b).buf = s.buf.write i b := rfl
@[simp] theorem State.memWrite_result (s : State) (i : Nat) (b : Byte) : (s.memWrite i b).result = s.result := rfl
@[simp] theorem State.memWrite_input (s : State) (i : Nat) (b : Byte) : (s.memWrite i b).input = s.input := rfl
@[simp] theorem State.memWrite_freeCount (s : State) (i : Nat) (b : Byte) : (s.memWrite i b).freeCount = s.freeCount := rfl

@[simp] theorem State.resetRegs_cfg (s : State) : (s.resetRegs).cfg = s.cfg := rfl
@[simp] theorem State.resetRegs_phase (s : State) : (s.resetRegs).phase = .header := rfl
@[simp] theorem State.resetRegs_sigIdx (s : State) : (s.resetRegs).sigIdx = 0 := rfl
@[simp] theorem State.resetRegs_len (s : State) : (s.resetRegs).len = 0 := rfl
@[simp] theorem State.resetRegs_wrPtr (s : State) : (s.resetRegs).wrPtr = 0 := rfl
@[simp] theorem State.resetRegs_frameReady (s : State) : (s.resetRegs).frameReady = false := rfl
@[simp] theorem State.resetRegs_frameDone (s : State) : (s.resetRegs).frameDone = s.frameDone := rfl
@[simp] theorem State.resetRegs_buf (s : State) : (s.resetRegs).buf = s.buf := rfl
@[simp] theorem State.resetRegs_result (s : State) : (s.resetRegs).result = s.result := rfl
@[simp] theorem State.resetRegs_input (s : State) : (s.resetRegs).input = s.input := rfl
@[simp] theorem State.resetRegs_freeCount (s : State) : (s.resetRegs).freeCount = s.freeCount := rfl

@[simp] theorem State.eraseBuf_cfg (s : State) : (s.eraseBuf).cfg = s.cfg := rfl
@[simp] theorem State.eraseBuf_phase (s : State) : (s.eraseBuf).phase = s.phase := rfl
@[simp] theorem State.eraseBuf_sigIdx (s : State) : (s.eraseBuf).sigIdx = s.sigIdx := rfl
@[simp] theorem State.eraseBuf_len (s : State) : (s.eraseBuf).len = s.len := rfl
@[simp] theorem State.eraseBuf_wrPtr (s : State) : (s.eraseBuf).wrPtr = s.wrPtr := rfl
@[simp] theorem State.eraseBuf_frameReady (s : State) : (s.eraseBuf).frameReady = s.frameReady := rfl
@[simp] theorem State.eraseBuf_frameDone (s : State) : (s.eraseBuf).frameDone = s.frameDone := rfl
@[simp] theorem State.eraseBuf_buf (s : State) : (s.eraseBuf).buf = [] := rfl
@[simp] theorem State.eraseBuf_result (s : State) : (s.eraseBuf).result = s.result := rfl
@[simp] theorem State.eraseBuf_input (s : State) : (s.eraseBuf).input = s.input := rfl
@[simp] theorem State.eraseBuf_freeCount (s : State) : (s.eraseBuf).freeCount = s.freeCount := rfl

@[simp] theorem State.answer_cfg (s : State) (r : Result) : (s.answer r).cfg = s.cfg := rfl
@[simp] theorem State.answer_phase (s : State) (r : Result) : (s.answer r).phase = s.phase := rfl
@[simp] theorem State.answer_sigIdx (s : State) (r : Result) : (s.answer r).sigIdx = s.sigIdx := rfl
@[simp] theorem State.answer_len (s : State) (r : Result) : (s.answer r).len = s.len := rfl
@[simp] theorem State.answer_wrPtr (s : State) (r : Result) : (s.answer r).wrPtr = s.wrPtr := rfl
@[simp] theorem State.answer_frameReady (s : State) (r : Result) : (s.answer r).frameReady = s.frameReady := rfl
@[simp] theorem State.answer_frameDone (s : State) (r : Result) : (s.answer r).frameDone = s.frameDone := rfl
@[simp] theorem State.answer_buf (s : State) (r : Result) : (s.answer r).buf = s.buf := rfl
@[simp] theorem State.answer_result (s : State) (r : Result) : (s.answer r).result = r := rfl
@[simp] theorem State.answer_input (s : State) (r : Result) : (s.answer r).input = s.input := rfl
@[simp] theorem State.answer_freeCount (s : State) (r : Result) : (s.answer r).freeCount = s.freeCount := rfl

@[simp] theorem State.countFree_cfg (s : State) (v : Bool) : (s.countFree v).cfg = s.cfg := rfl
@[simp] theorem State.countFree_phase (s : State) (v : Bool) : (s.countFree v).phase = s.phase := rfl
@[simp] theorem State.countFree_sigIdx (s : State) (v : Bool) : (s.countFree v).sigIdx = s.sigIdx := rfl
@[simp] theorem State.countFree_len (s : State) (v : Bool) : (s.countFree v).len = s.len := rfl
@[simp] theorem State.countFree_wrPtr (s : State) (v : Bool) : (s.countFree v).wrPtr = s.wrPtr := rfl
@[simp] theorem State.countFree_frameReady (s : State) (v : Bool) : (s.countFree v).frameReady = s.frameReady := rfl
@[simp] theorem State.countFree_frameDone (s : State) (v : Bool) : (s.countFree v).frameDone = s.frameDone := rfl
@[simp] theorem State.countFree_buf (s : State) (v : Bool) : (s.countFree v).buf = s.buf := rfl
@[simp] theorem State.countFree_result (s : State) (v : Bool) : (s.countFree v).result = s.result := rfl
@[simp] theorem State.countFree_input (s : State) (v : Bool) : (s.countFree v).input = s.input := rfl
@[simp] theorem State.countFree_freeCount (s : State) (v : Bool) : (s.countFree v).freeCount = s.freeCount + v.toNat := rfl
@[simp] theorem State.countFree_false (s : State) : s.countFree false = s := rfl

@[simp] theorem State.setReady_cfg (s : State) (v : Bool) : (s.setReady v).cfg = s.cfg := rfl
@[simp] theorem State.setReady_phase (s : State) (v : Bool) : (s.setReady v).phase = s.phase := rfl
@[simp] theorem State.setReady_sigIdx (s : State) (v : Bool) : (s.setReady v).sigIdx = s.sigIdx := rfl
@[simp] theorem State.setReady_len (s : State) (v : Bool) : (s.setReady v).len = s.len := rfl
@[simp] theorem State.setReady_wrPtr (s : State) (v : Bool) : (s.setReady v).wrPtr = s.wrPtr := rfl
@[simp] theorem State.setReady_frameReady (s : State) (v : Bool) : (s.setReady v).frameReady = v := rfl
@[simp] theorem State.setReady_frameDone (s : State) (v : Bool) : (s.setReady v).frameDone = s.frameDone := rfl
@[simp] theorem State.setReady_buf (s : State) (v : Bool) : (s.setReady v).buf = s.buf := rfl
@[simp] theorem State.setReady_result (s : State) (v : Bool) : (s.setReady v).result = s.result := rfl
@[simp] theorem State.setReady_input (s : State) (v : Bool) : (s.setReady v).input = s.input := rfl
@[simp] theorem State.setReady_freeCount (s : State) (v : Bool) : (s.setReady v).freeCount = s.freeCount := rfl

@[simp] theorem State.setDone_cfg (s : State) (v : Bool) : (s.setDone v).cfg = s.cfg := rfl
@[simp] theorem State.setDone_phase (s : State) (v : Bool) : (s.setDone v).phase = s.phase := rfl
@[simp] theorem State.setDone_sigIdx (s : State) (v : Bool) : (s.setDone v).sigIdx = s.sigIdx := rfl
@[simp] theorem State.setDone_len (s : State) (v : Bool) : (s.setDone v).len = s.len := rfl
@[simp] theorem State.setDone_wrPtr (s : State) (v : Bool) : (s.setDone v).wrPtr = s.wrPtr := rfl
@[simp] theorem State.setDone_frameReady (s : State) (v : Bool) : (s.setDone v).frameReady = s.frameReady := rfl
@[simp] theorem State.setDone_frameDone (s : State) (v : Bool) : (s.setDone v).frameDone = v := rfl
@[simp] theorem State.setDone_buf (s : State) (v : Bool) : (s.setDone v).buf = s.buf := rfl
@[simp] theorem State.setDone_result (s : State) (v : Bool) : (s.setDone v).result = .done v := rfl
@[simp] theorem State.setDone_input (s : State) (v : Bool) : (s.setDone v).input = s.input := rfl
@[simp] theorem State.setDone_freeCount (s : State) (v : Bool) : (s.setDone v).freeCount = s.freeCount := rfl

@[simp] theorem State.resetWith_cfg (c : Config) : (State.resetWith c).cfg = c := rfl
@[simp] theorem State.resetWith_phase (c : Config) : (State.resetWith c).phase = .header := rfl
@[simp] theorem State.resetWith_sigIdx (c : Config) : (State.resetWith c).sigIdx = 0 := rfl
@[simp] theorem State.resetWith_len (c : Config) : (State.resetWith c).len = 0 := rfl
@[simp] theorem State.resetWith_wrPtr (c : Config) : (State.resetWith c).wrPtr = 0 := rfl
@[simp] theorem State.resetWith_frameReady (c : Config) : (State.resetWith c).frameReady = false := rfl
@[simp] theorem State.resetWith_frameDone (c : Config) : (State.resetWith c).frameDone = false := rfl
@[simp] theorem State.resetWith_buf (c : Config) : (State.resetWith c).buf = [] := rfl
@[simp] theorem State.resetWith_result (c : Config) : (State.resetWith c).result = .done false := rfl
@[simp] theorem State.resetWith_input (c : Config) : (State.resetWith c).input = [] := rfl
@[simp] theorem State.resetWith_freeCount (c : Config) : (State.resetWith c).freeCount = 0 := rfl

@[simp] theorem State.withFetchWord_cfg (s : State) (n w : Nat) : (s.withFetchWord n w).cfg = s.cfg := rfl
@[simp] theorem State.withFetchWord_phase (s : State) (n w : Nat) : (s.withFetchWord n w).phase = s.phase := rfl
@[simp] theorem State.withFetchWord_sigIdx (s : State) (n w : Nat) : (s.withFetchWord n w).sigIdx = s.sigIdx := rfl
@[simp] theorem State.withFetchWord_len (s : State) (n w : Nat) : (s.withFetchWord n w).len = s.len := rfl
@[simp] theorem State.withFetchWord_wrPtr (s : State) (n w : Nat) : (s.withFetchWord n w).wrPtr = s.wrPtr := rfl
@[simp] theorem State.withFetchWord_frameReady (s : State) (n w : Nat) : (s.withFetchWord n w).frameReady = s.frameReady := rfl
@[simp] theorem State.withFetchWord_frameDone (s : State) (n w : Nat) : (s.withFetchWord n w).frameDone = s.frameDone := rfl
@[simp] theorem State.withFetchWord_buf (s : State) (n w : Nat) : (s.withFetchWord n w).buf = s.buf := rfl
@[simp] theorem State.withFetchWord_result (s : State) (n w : Nat) : (s.withFetchWord n w).result = s.result := rfl
@[simp] theorem State.withFetchWord_input (s : State) (n w : Nat) : (s.withFetchWord n w).input = inputOfWord n w :: s.input := rfl
@[simp] theorem State.withFetchWord_freeCount (s : State) (n w : Nat) : (s.withFetchWord n w).freeCount = s.freeCount := rfl

/-- The host presents nothing: DIW 000 is fetched and the list stays empty. -/
theorem State.fetch_nil (s : State) (h : s.input = []) : s.fetch = (nothingPresented, s) := by simp [State.fetch, h]

/-- The host's next presentation is taken from the list. -/
theorem State.fetch_cons (s : State) (x : Input) (rest : List Input) (h : s.input = x :: rest) :
    s.fetch = (x, { s with input := rest }) := by simp [State.fetch, h]

/-- Fetching changes the list of presentations only. -/
theorem State.fetch_state (s : State) : s.fetch.2 = { s with input := s.input.tail } := by
  cases h : s.input with
  | nil =>
    rw [s.fetch_nil h, List.tail_nil, ← h]
  | cons x rest => rw [s.fetch_cons x rest h]; rfl

end Sys2Proof.Machine
end

