-- ==== Sys2Proof/Laws/Decoder.lean ====
section
/-! SUPPORT. What one BYTE does, said once per rule of spec/40_decoder.md; later proofs cite these instead of unfolding `byteNext`. -/

namespace Sys2Proof.Machine

/-- Where the signature has the index, `HDR[i]` is its byte. -/
theorem headerByte_of_getElem? {c : FrameClass} {i : BitVec 2} {b : Byte} (h : c.hdr[i.toNat]? = some b) :
    headerByte c i = b := by simp [headerByte, h]

theorem footerMatches_iff (c : FrameClass) (i : BitVec 2) (d : Byte) :
    footerMatches c i d = true ↔ c.ftr[i.toNat]? = some d := by simp [footerMatches]

/-- The dispatch of R85, inverted: the phase and the comparison that select each rule. -/
theorem byteRule_cases (d : Byte) (s : State) :
    (byteRule d s = .headerMatch ∧ s.phase = .header ∧ d = headerByte s.cfg.dec s.sigIdx) ∨
    (byteRule d s = .headerMismatch ∧ s.phase = .header ∧ d ≠ headerByte s.cfg.dec s.sigIdx) ∨
    (byteRule d s = .firstLength ∧ s.phase = .len0) ∨
    (byteRule d s = .lengthRejected ∧ s.phase = .len1 ∧ s.cfg.cap ≤ (lenSecond s.cfg.dec.order s.len d).toNat) ∨
    (byteRule d s = .lengthAccepted ∧ s.phase = .len1 ∧ (lenSecond s.cfg.dec.order s.len d).toNat < s.cfg.cap) ∨
    (byteRule d s = .payloadByte ∧ s.phase = .payload ∧ s.wrPtr.toNat < s.len.toNat ∧ s.len.toNat < s.cfg.cap) ∨
    (byteRule d s = .payloadViolation ∧ s.phase = .payload ∧ (s.len.toNat ≤ s.wrPtr.toNat ∨ s.cfg.cap ≤ s.len.toNat)) ∨
    (byteRule d s = .footerMatch ∧ s.phase = .footer ∧ s.cfg.dec.ftr[s.sigIdx.toNat]? = some d ∧
      s.sigIdx.toNat + 1 < s.cfg.dec.ftr.length) ∨
    (byteRule d s = .frameComplete ∧ s.phase = .footer ∧ s.cfg.dec.ftr[s.sigIdx.toNat]? = some d ∧
      s.sigIdx.toNat + 1 = s.cfg.dec.ftr.length) ∨
    (byteRule d s = .footerMismatch ∧ s.phase = .footer ∧ s.cfg.dec.ftr[s.sigIdx.toNat]? ≠ some d) ∨
    (byteRule d s = .illegalPhase ∧ s.phase.legal = false) := by
  cases hp : s.phase with
  | header => by_cases h : d = headerByte s.cfg.dec s.sigIdx <;> simp [byteRule, hp, h]
  | len0 => simp [byteRule, hp]
  | len1 =>
    by_cases h : s.cfg.cap ≤ (lenSecond s.cfg.dec.order s.len d).toNat
    · simp [byteRule, hp, h]
    · simp [byteRule, hp, h, Nat.lt_of_not_le h]
  | payload =>
    by_cases h : s.wrPtr.toNat < s.len.toNat ∧ s.len.toNat < s.cfg.cap
    · simp [byteRule, hp, h]
    · have h' : s.len.toNat ≤ s.wrPtr.toNat ∨ s.cfg.cap ≤ s.len.toNat := by omega
      simp [byteRule, hp, h, h']
  | footer =>
    by_cases h : s.cfg.dec.ftr[s.sigIdx.toNat]? = some d
    · obtain ⟨hlt, -⟩ := List.getElem?_eq_some_iff.mp h
      by_cases h2 : s.sigIdx.toNat + 1 = s.cfg.dec.ftr.length
      · simp [byteRule, hp, footerMatches, h, h2]
      · have h3 : s.sigIdx.toNat + 1 < s.cfg.dec.ftr.length := by omega
        simp [byteRule, hp, footerMatches, h, h2, h3]
    · simp [byteRule, hp, footerMatches, h]
  | illegal5 => simp [byteRule, hp, Phase.legal]
  | illegal6 => simp [byteRule, hp, Phase.legal]
  | illegal7 => simp [byteRule, hp, Phase.legal]

/-- No rule writes the configuration (R30). -/
@[simp] theorem applyByteRule_cfg (d : Byte) (s : State) (r : ByteRule) : (applyByteRule d s r).cfg = s.cfg := by
  cases r <;> simp [applyByteRule, byteHeaderMatch, byteHeaderMismatch, byteFirstLength, byteLengthRejected,
    byteLengthAccepted, bytePayload, bytePayloadViolation, byteFooterMatch, byteFrameComplete, byteFooterMismatch,
    byteIllegalPhase] <;> split <;> rfl

/-- No rule reads or writes the host's operations. -/
@[simp] theorem applyByteRule_input (d : Byte) (s : State) (r : ByteRule) : (applyByteRule d s r).input = s.input := by
  cases r <;> simp [applyByteRule, byteHeaderMatch, byteHeaderMismatch, byteFirstLength, byteLengthRejected,
    byteLengthAccepted, bytePayload, bytePayloadViolation, byteFooterMatch, byteFrameComplete, byteFooterMismatch,
    byteIllegalPhase] <;> split <;> rfl

@[simp] theorem byteNext_cfg (d : Byte) (s : State) : (byteNext d s).cfg = s.cfg := by simp [byteNext]

@[simp] theorem byteNext_input (d : Byte) (s : State) : (byteNext d s).input = s.input := by simp [byteNext]

/-- R88. -/
theorem byteNext_headerMatch {d : Byte} {s : State} (h : byteRule d s = .headerMatch) :
    byteNext d s =
      { s with
        phase := if s.sigIdx.toNat + 1 = s.cfg.dec.hdr.length then .len0 else s.phase
        sigIdx := if s.sigIdx.toNat + 1 = s.cfg.dec.hdr.length then 0 else s.sigIdx + 1
        frameReady := false, frameDone := false, result := .done false } := by
  by_cases hl : s.sigIdx.toNat + 1 = s.cfg.dec.hdr.length <;>
    simp [byteNext, h, applyByteRule, byteHeaderMatch, State.setReady, State.setDone, hl]

/-- R89. -/
theorem byteNext_headerMismatch {d : Byte} {s : State} (h : byteRule d s = .headerMismatch) :
    byteNext d s =
      { s with
        sigIdx := if d = headerByte s.cfg.dec 0 then 1 else 0
        frameReady := false, frameDone := false, result := .done false } := by
  simp only [byteNext, h, applyByteRule]
  rfl

/-- R90. -/
theorem byteNext_firstLength {d : Byte} {s : State} (h : byteRule d s = .firstLength) :
    byteNext d s =
      { s with
        phase := .len1, len := lenFirst s.cfg.dec.order d
        frameReady := false, frameDone := false, result := .done false } := by
  simp only [byteNext, h, applyByteRule]
  rfl

/-- R92. -/
theorem byteNext_lengthAccepted {d : Byte} {s : State} (h : byteRule d s = .lengthAccepted) :
    byteNext d s =
      { s with
        phase := if lenSecond s.cfg.dec.order s.len d = 0 then .footer else .payload
        sigIdx := 0, len := lenSecond s.cfg.dec.order s.len d, wrPtr := 0
        frameReady := false, frameDone := false, result := .done false } := by
  simp only [byteNext, h, applyByteRule]
  rfl

/-- R93. -/
theorem byteNext_payloadByte {d : Byte} {s : State} (h : byteRule d s = .payloadByte) :
    byteNext d s =
      { s with
        phase := if s.wrPtr.toNat + 1 = s.len.toNat then .footer else s.phase
        sigIdx := if s.wrPtr.toNat + 1 = s.len.toNat then 0 else s.sigIdx
        wrPtr := s.wrPtr + 1, buf := s.buf.write s.wrPtr.toNat d
        frameReady := false, frameDone := false, result := .done false } := by
  by_cases hl : s.wrPtr.toNat + 1 = s.len.toNat <;>
    simp [byteNext, h, applyByteRule, bytePayload, State.setReady, State.setDone, State.memWrite, hl]

/-- R95. -/
theorem byteNext_footerMatch {d : Byte} {s : State} (h : byteRule d s = .footerMatch) :
    byteNext d s =
      { s with sigIdx := s.sigIdx + 1, frameReady := false, frameDone := false, result := .done false } := by
  simp only [byteNext, h, applyByteRule]
  rfl

/-- R96. -/
theorem byteNext_frameComplete {d : Byte} {s : State} (h : byteRule d s = .frameComplete) :
    byteNext d s =
      { s with
        phase := .header, sigIdx := 0, wrPtr := 0
        frameReady := true, frameDone := true, result := .done true } := by
  simp only [byteNext, h, applyByteRule]
  rfl

/-- The rules that call `Reset()`: R91 (rejected), R94, R97, R98. -/
theorem byteNext_resync {d : Byte} {s : State}
    (h : byteRule d s = .lengthRejected ∨ byteRule d s = .payloadViolation ∨ byteRule d s = .footerMismatch ∨
      byteRule d s = .illegalPhase) :
    byteNext d s =
      { s with
        phase := .header, sigIdx := 0, len := 0, wrPtr := 0
        frameReady := false, frameDone := false, result := .done false } := by
  rcases h with h | h | h | h <;>
    simp [byteNext, h, applyByteRule, byteLengthRejected, bytePayloadViolation, byteFooterMismatch, byteIllegalPhase,
      State.resetRegs, State.setReady, State.setDone]

/-- BYTE does not look at the host's further operations. -/
theorem byteNext_withInput (d : Byte) (s : State) (ops : List Input) :
    byteNext d { s with input := ops } = { byteNext d s with input := ops } := by
  have same : byteRule d { s with input := ops } = byteRule d s := rfl
  rcases byteRule_cases d s with ⟨r, -⟩ | ⟨r, -⟩ | ⟨r, -⟩ | ⟨r, -⟩ | ⟨r, -⟩ | ⟨r, -⟩ | ⟨r, -⟩ | ⟨r, -⟩ | ⟨r, -⟩ | ⟨r, -⟩ | ⟨r, -⟩
  · rw [byteNext_headerMatch r, byteNext_headerMatch (same.trans r)]
  · rw [byteNext_headerMismatch r, byteNext_headerMismatch (same.trans r)]
  · rw [byteNext_firstLength r, byteNext_firstLength (same.trans r)]
  · rw [byteNext_resync (.inl r), byteNext_resync (.inl (same.trans r))]
  · rw [byteNext_lengthAccepted r, byteNext_lengthAccepted (same.trans r)]
  · rw [byteNext_payloadByte r, byteNext_payloadByte (same.trans r)]
  · rw [byteNext_resync (.inr (.inl r)), byteNext_resync (.inr (.inl (same.trans r)))]
  · rw [byteNext_footerMatch r, byteNext_footerMatch (same.trans r)]
  · rw [byteNext_frameComplete r, byteNext_frameComplete (same.trans r)]
  · rw [byteNext_resync (.inr (.inr (.inl r))), byteNext_resync (.inr (.inr (.inl (same.trans r))))]
  · rw [byteNext_resync (.inr (.inr (.inr r))), byteNext_resync (.inr (.inr (.inr (same.trans r))))]

end Sys2Proof.Machine
end

