-- ==== Sys2Proof/Laws/Exec.lean ====
section
/-! SUPPORT. The arms of `exec`, what a next state of each can be, one step, and the expansion FEED. -/

namespace Sys2Proof.Machine

@[simp] theorem exec_por (s : State) : exec .por s = .next (s.resetRegs.eraseBuf.setDone false) := rfl
@[simp] theorem exec_reset (s : State) : exec .reset s = .next (s.resetRegs.setDone false) := rfl
@[simp] theorem exec_byte (d : Byte) (s : State) : exec (.byte d) s = .next (byteNext d s) := rfl
@[simp] theorem exec_idle (s : State) : exec .idle s = .next (s.setDone false) := rfl

/-- Every outcome of TAKE of the whole payload (R101). -/
theorem takeWhole_cases (s : State) :
    (s.frameReady = false ∧ takeWhole s = .fault (.preconditionError .notReady)) ∨
    (s.frameReady = true ∧ s.cfg.cap < s.len.toNat ∧ takeWhole s = .fault (.preconditionError .outOfRange)) ∨
    (s.frameReady = true ∧ s.len.toNat ≤ s.cfg.cap ∧ s.buf.readRange 0 s.len.toNat = none ∧
      takeWhole s = .fault (.preconditionError .unwritten)) ∨
    (∃ bytes, s.frameReady = true ∧ s.len.toNat ≤ s.cfg.cap ∧ s.buf.readRange 0 s.len.toNat = some bytes ∧
      takeWhole s = .next (s.answer (.payload s.len bytes))) := by
  cases hr : s.frameReady with
  | false => simp [takeWhole, hr]
  | true =>
    by_cases hc : s.cfg.cap < s.len.toNat
    · simp [takeWhole, hr, hc]
    · cases hb : s.buf.readRange 0 s.len.toNat <;> simp [takeWhole, hr, hc, hb, Nat.le_of_not_lt hc]

/-- Every outcome of one read-port access (R101, D33). -/
theorem takePort_cases (a : Addr) (s : State) :
    (s.frameReady = false ∧ takePort a s = .fault (.preconditionError .notReady)) ∨
    (s.frameReady = true ∧ (s.len.toNat ≤ a.toNat ∨ s.cfg.cap ≤ a.toNat) ∧
      takePort a s = .fault (.preconditionError .outOfRange)) ∨
    (s.frameReady = true ∧ a.toNat < s.len.toNat ∧ a.toNat < s.cfg.cap ∧ s.buf.read a.toNat = none ∧
      takePort a s = .fault (.preconditionError .unwritten)) ∨
    (∃ b, s.frameReady = true ∧ a.toNat < s.len.toNat ∧ a.toNat < s.cfg.cap ∧ s.buf.read a.toNat = some b ∧
      takePort a s = .next (s.answer (.readData s.len b))) := by
  cases hr : s.frameReady with
  | false => simp [takePort, hr]
  | true =>
    by_cases hc : s.len.toNat ≤ a.toNat ∨ s.cfg.cap ≤ a.toNat
    · simp [takePort, hr, hc]
    · have h1 : a.toNat < s.len.toNat := by omega
      have h2 : a.toNat < s.cfg.cap := by omega
      cases hb : s.buf.read a.toNat <;>
        simp [takePort, hr, State.rdData, h1, h2, hb, Nat.not_le_of_lt h1, Nat.not_le_of_lt h2]

/-- TAKE changes nothing but the step's output (R101). -/
theorem execTake_next {form : ReadForm} {s t : State} (h : execTake form s = .next t) : ∃ r, t = s.answer r := by
  cases form with
  | whole =>
    rcases takeWhole_cases s with ⟨-, e⟩ | ⟨-, -, e⟩ | ⟨-, -, -, e⟩ | ⟨bytes, -, -, -, e⟩ <;>
      simp [execTake, e] at h
    exact ⟨_, h.symm⟩
  | port a =>
    rcases takePort_cases a s with ⟨-, e⟩ | ⟨-, -, e⟩ | ⟨-, -, -, -, e⟩ | ⟨b, -, -, -, -, e⟩ <;>
      simp [execTake, e] at h
    exact ⟨_, h.symm⟩

/-- TAKE does not look at the outputs: with `frame_done` and `result` rewritten it answers the same bytes or faults for the same
reason. -/
theorem execTake_setDone (form : ReadForm) (s : State) (v : Bool) :
    (∃ r, execTake form s = .next (s.answer r) ∧ execTake form (s.setDone v) = .next ((s.setDone v).answer r)) ∨
    ∃ e, execTake form s = .fault e ∧ execTake form (s.setDone v) = .fault e := by
  cases form with
  | whole =>
    have hw := takeWhole_cases s
    rcases hw with ⟨h, e⟩ | ⟨h, hc, e⟩ | ⟨h, hc, hb, e⟩ | ⟨bytes, h, hc, hb, e⟩
    · exact .inr ⟨_, e, by simp [execTake, takeWhole, State.setDone, h]⟩
    · exact .inr ⟨_, e, by simp [execTake, takeWhole, State.setDone, h, hc]⟩
    · exact .inr ⟨_, e, by simp [execTake, takeWhole, State.setDone, h, Nat.not_lt_of_le hc, hb]⟩
    · exact .inl ⟨_, e, by simp [execTake, takeWhole, State.setDone, h, Nat.not_lt_of_le hc, hb]⟩
  | port a =>
    have hp := takePort_cases a s
    rcases hp with ⟨h, e⟩ | ⟨h, hc, e⟩ | ⟨h, h1, h2, hb, e⟩ | ⟨b, h, h1, h2, hb, e⟩
    · exact .inr ⟨_, e, by simp [execTake, takePort, State.setDone, h]⟩
    · exact .inr ⟨_, e, by simp [execTake, takePort, State.setDone, h, hc]⟩
    · exact .inr ⟨_, e, by
        simp [execTake, takePort, State.rdData, State.setDone, h, Nat.not_le_of_lt h1, Nat.not_le_of_lt h2, h2, hb]⟩
    · exact .inl ⟨_, e, by
        simp [execTake, takePort, State.rdData, State.setDone, h, Nat.not_le_of_lt h1, Nat.not_le_of_lt h2, h2, hb]⟩

@[simp] theorem payBytes_length (n : Nat) (p : PayloadPort) : (payBytes n p).length = p.plen.toNat := by simp [payBytes]

/-- Payload byte k is what stands on `enc_pay_data` there. -/
theorem payBytes_getElem? (n : Nat) {p : PayloadPort} {k : Nat} (h : k < p.plen.toNat) :
    (payBytes n p)[k]? = some (payData n p k) := by
  simp [payBytes, List.getElem?_range h]

theorem payData_of_served {n : Nat} {p : PayloadPort} {k : Nat} {b : Byte} (h : p.served[k]? = some b) :
    payData n p k = b := by simp [payData, h]

/-- Where enough bytes are served the payload is theirs: no free value is in it. -/
theorem payBytes_of_served (n : Nat) {p : PayloadPort} (h : p.plen.toNat ≤ p.served.length) :
    payBytes n p = p.served.take p.plen.toNat := by
  apply List.ext_getElem?
  intro k
  by_cases hk : k < p.plen.toNat
  · have hs : p.served[k]? = some p.served[k] := List.getElem?_eq_getElem (Nat.lt_of_lt_of_le hk h)
    rw [payBytes_getElem? n hk, payData_of_served hs, List.getElem?_take_of_lt hk, hs]
  · rw [List.getElem?_eq_none (by simp; omega), List.getElem?_eq_none (by simp; omega)]

@[simp] theorem ofBytes_served (p : List Byte) : (PayloadPort.ofBytes p).served = p := rfl

theorem ofBytes_plen (p : List Byte) : (PayloadPort.ofBytes p).plen.toNat = min p.length 0xFFFF :=
  Nat.mod_eq_of_lt (by omega)

/-- A caller that serves exactly the payload, where `enc_plen` can show its length. -/
theorem payBytes_ofBytes (n : Nat) {p : List Byte} (h : p.length ≤ 0xFFFF) : payBytes n (.ofBytes p) = p := by
  have hl : (PayloadPort.ofBytes p).plen.toNat = p.length := by rw [ofBytes_plen]; omega
  rw [payBytes_of_served n (by rw [hl]; exact Nat.le_refl _), hl]
  exact List.take_length

/-- CapacityError depends on the payload's own length, whatever it is (R121). -/
theorem capacityExceeded_ofBytes {c : Config} (h : c.encMaxPayload ≤ 0xFFFD) (p : List Byte) :
    capacityExceeded c (PayloadPort.ofBytes p).plen.toNat = capacityExceeded c p.length := by
  simp only [capacityExceeded, ofBytes_plen, decide_eq_decide]
  omega

/-- ENC of the spec's form, `ENC cmd, p`: the frame of `p`, or CapacityError (R120, R121). -/
theorem execEnc_ofBytes (cmd : Word16) (p : List Byte) (s : State) (h : s.cfg.encMaxPayload ≤ 0xFFFD) :
    execEnc cmd (.ofBytes p) s = .next (s.answer
      (if capacityExceeded s.cfg p.length then .frame [] 0 true
        else .frame (encFrame s.cfg.enc cmd p) (BitVec.ofNat 17 (encLength s.cfg.enc p.length)) false)) := by
  unfold execEnc
  rw [capacityExceeded_ofBytes h]
  cases hc : capacityExceeded s.cfg p.length with
  | true => rfl
  | false =>
    have hp : p.length ≤ 0xFFFF := by
      simp only [capacityExceeded, decide_eq_false_iff_not] at hc
      omega
    have hl : (PayloadPort.ofBytes p).plen.toNat = p.length := by rw [ofBytes_plen]; omega
    simp [hl, payBytes_ofBytes s.freeCount hp]

/-- ENC always completes and changes nothing but the step's output and the counter of free values, which stays where every byte is
served (R120, R139). -/
theorem execEnc_next (cmd : Word16) (p : PayloadPort) (s : State) :
    ∃ r v, execEnc cmd p s = .next ((s.answer r).countFree v) ∧ (p.plen.toNat ≤ p.served.length → v = false) := by
  unfold execEnc
  split
  · exact ⟨.frame [] 0 true, false, by rw [State.countFree_false], fun _ => rfl⟩
  · exact ⟨_, _, rfl, fun h => by simpa using h⟩

/-- An index below T asks for a payload byte only below P (R122). -/
theorem encFieldUnserved_of_served {c : FrameClass} {P j : Nat} {p : PayloadPort} (h : P ≤ p.served.length) :
    encFieldUnserved p (encSelect c P j) = false := by
  unfold encSelect
  simp only []
  split_ifs <;> simp only [encFieldUnserved, decide_eq_false_iff_not]
  omega

/-- ENCB completes, changing nothing but the step's output and the counter of free values, or is refused beyond the frame (R122,
R124). -/
theorem execEncb_cases (cmd : Word16) (p : PayloadPort) (j : Index17) (s : State) :
    (capacityExceeded s.cfg p.plen.toNat = false ∧ encLength s.cfg.enc p.plen.toNat ≤ j.toNat ∧
      execEncb cmd p j s = .refused .encIndexBeyondFrame) ∨
    ((capacityExceeded s.cfg p.plen.toNat = true ∨ j.toNat < encLength s.cfg.enc p.plen.toNat) ∧
      ∃ v, execEncb cmd p j s =
          .next ((s.answer (.encByte (encPorts s.cfg cmd p.plen.toNat (payData s.freeCount p) j))).countFree v) ∧
        (p.plen.toNat ≤ p.served.length → v = false)) := by
  cases hc : capacityExceeded s.cfg p.plen.toNat with
  | true => exact .inr ⟨.inl rfl, false, by simp [execEncb, hc], fun _ => rfl⟩
  | false =>
    by_cases hl : encLength s.cfg.enc p.plen.toNat ≤ j.toNat
    · exact .inl ⟨rfl, hl, by simp [execEncb, hc, hl]⟩
    · refine .inr ⟨.inr (Nat.lt_of_not_le hl), encFieldUnserved p (encSelect s.cfg.enc p.plen.toNat j.toNat), ?_,
        encFieldUnserved_of_served⟩
      simp only [execEncb, hc, hl, if_false, Bool.false_eq_true]

/-- One step of a well-formed block whose next presentation decodes. -/
theorem step_of_decode {s : State} {i : Instr} (hc : s.cfg.wf = true) (hd : decode s.fetch.1 = .ok i) :
    step s = exec i s.fetch.2 := by simp [step, hc, hd]

@[simp] theorem feed_nil (s : State) : feed [] s = .next (s, []) := rfl

/-- FEED never stops: its result is the states' fold and their `done` values (R72, R107). -/
theorem feed_cons (b : Byte) (bs : List Byte) (s : State) {u : State} {ds : List Bool}
    (h : feed bs (byteNext b s) = .next (u, ds)) : feed (b :: bs) s = .next (u, (byteNext b s).frameDone :: ds) := by
  simp [feed, h]

/-- SEND of a payload beyond ENC_MAX_PAYLOAD feeds nothing (R72, R121). -/
theorem send_of_exceeded (cmd : Word16) {p : List Byte} {s : State} (h : s.cfg.encMaxPayload ≤ 0xFFFD)
    (hp : s.cfg.encMaxPayload < p.length) : send cmd p s = .next (s.answer (.frame [] 0 true), []) := by
  have hc : capacityExceeded s.cfg p.length = true := decide_eq_true hp
  have he : exec (.enc cmd (.ofBytes p)) s = .next (s.answer (.frame [] 0 true)) := by
    refine (execEnc_ofBytes cmd p s h).trans ?_
    rw [hc, if_pos rfl]
  simp [send, he, Result.frameBytes]

/-- WAIT never stops, and leaves the state as it was or as one IDLE leaves it (R72, R100). -/
theorem wait_cases (n : Nat) (s : State) : wait n s = .next s ∨ wait n s = .next (s.setDone false) := by
  induction n generalizing s with
  | zero => exact .inl rfl
  | succ n ih =>
    refine .inr ?_
    show wait n (s.setDone false) = _
    rcases ih (s.setDone false) with h | h <;> exact h

/-- `runSteps` is the host's run of the machine. -/
theorem runSteps_eq_run (n : Nat) (s : State) : runSteps n s = Host.Core.run core n s := by
  induction n generalizing s with
  | zero => rfl
  | succ n ih =>
    refine Eq.trans ?_ (Host.Core.run.eq_2 core s n).symm
    cases hs : step s with
    | next t =>
      have hc : core.step s = .next t := hs
      rw [hc]
      simp only [runSteps, hs]
      exact ih t
    | fault r =>
      have hc : core.step s = .fault r := hs
      rw [hc]
      simp only [runSteps, hs]
      rfl
    | refused r =>
      have hc : core.step s = .refused r := hs
      rw [hc]
      simp only [runSteps, hs]
      rfl

end Sys2Proof.Machine
end

