-- ==== Sys2Proof/Laws/PerInstr.lean ====
section
/-! SUPPORT. Statements made for every instruction, one lemma per constructor. -/

/-- No check of an instruction can fail: the widths of the ports are the types' (R66, R68, R69). -/
@[simp] theorem Sys2Proof.Instr.wf_eq_true (i : Sys2Proof.Instr) : i.wf = true := by cases i <;> rfl

namespace Sys2Proof.Laws.TableMatch

/-- The presentation of an instruction: on DIW, its word meets the `match` and `mask` of its row in spec/opcode_table.json
(R67); on the other ports it is no DIW word (R68, R69). -/
def Statement : Instr → Prop
  | .por => ∃ w, encode .por = .diw w ∧ w &&& 0x400 = 0x400
  | .reset => ∃ w, encode .reset = .diw w ∧ w &&& 0x600 = 0x200
  | .byte d => ∃ w, encode (.byte d) = .diw w ∧ w &&& 0x700 = 0x100 ∧ w.extractLsb' 0 8 = d
  | .idle => ∃ w, encode .idle = .diw w ∧ w &&& 0x700 = 0x000
  | .take form => ∀ w, encode (.take form) ≠ .diw w
  | .enc cmd p => ∀ w, encode (.enc cmd p) ≠ .diw w
  | .encb cmd p j => ∀ w, encode (.encb cmd p j) ≠ .diw w

theorem por : Statement .por := ⟨_, rfl, by decide⟩
theorem reset : Statement .reset := ⟨_, rfl, by decide⟩

theorem byte (d : Byte) : Statement (.byte d) := by
  refine ⟨_, rfl, ?_, ?_⟩
  · ext i hi
    have : i = 0 ∨ i = 1 ∨ i = 2 ∨ i = 3 ∨ i = 4 ∨ i = 5 ∨ i = 6 ∨ i = 7 ∨ i = 8 ∨ i = 9 ∨ i = 10 := by omega
    rcases this with h | h | h | h | h | h | h | h | h | h | h <;> subst h <;> simp
  · ext i hi
    have : i = 0 ∨ i = 1 ∨ i = 2 ∨ i = 3 ∨ i = 4 ∨ i = 5 ∨ i = 6 ∨ i = 7 := by omega
    rcases this with h | h | h | h | h | h | h | h <;> subst h <;> simp

theorem idle : Statement .idle := ⟨_, rfl, by decide⟩

theorem take (form : ReadForm) : Statement (.take form) := by
  intro w h
  cases form <;> cases h

theorem enc (cmd : Word16) (p : PayloadPort) : Statement (.enc cmd p) := fun _ h => by cases h
theorem encb (cmd : Word16) (p : PayloadPort) (j : Index17) : Statement (.encb cmd p j) := fun _ h => by cases h

end Sys2Proof.Laws.TableMatch
end

