-- ==== Sys2Proof/Laws/Safety.lean ====
section
/-! SUPPORT. What the invariant gives at once, and that it looks at the decoder's registers, buffer and configuration only. -/

namespace Sys2Proof.Machine

/-- The lengths a good state's configuration has (R10). -/
theorem GoodState.bounds {s : State} (h : GoodState s) :
    2 ≤ s.cfg.dec.hdr.length ∧ s.cfg.dec.hdr.length ≤ 4 ∧ s.cfg.dec.ftr.length = s.cfg.dec.hdr.length ∧
      32 ≤ s.cfg.cap ∧ s.cfg.cap ≤ 64 := by
  obtain ⟨hd, -, h1, h2, -⟩ := s.cfg.wf_iff.mp h.cfgWf
  obtain ⟨h3, h4, h5, -⟩ := s.cfg.dec.wf_iff.mp hd
  exact ⟨h3, h4, h5, h1, h2⟩

/-- A state that agrees with a good one but for its outputs and the host's operations is good. -/
theorem GoodState.of_same {s t : State} (h : GoodState s) (cfg : t.cfg = s.cfg) (phase : t.phase = s.phase)
    (sigIdx : t.sigIdx = s.sigIdx) (len : t.len = s.len) (wrPtr : t.wrPtr = s.wrPtr)
    (ready : t.frameReady = s.frameReady) (buf : t.buf = s.buf) (done : t.frameDone = true → s.frameDone = true) :
    GoodState t where
  cfgWf := by rw [cfg]; exact h.cfgWf
  phaseLegal := by rw [phase]; exact h.phaseLegal
  sigRange := by rw [cfg, sigIdx]; exact h.sigRange
  sigZero := by rw [phase, sigIdx]; exact h.sigZero
  lenBound := by rw [phase, len, cfg]; exact h.lenBound
  ptrZero := by rw [phase, wrPtr]; exact h.ptrZero
  ptrPayload := by rw [phase, wrPtr, len]; exact h.ptrPayload
  ptrFooter := by rw [phase, wrPtr, len]; exact h.ptrFooter
  bufWf := by rw [buf]; exact h.bufWf
  bufRange := by rw [buf, cfg]; exact h.bufRange
  filled := by rw [phase, buf, wrPtr]; exact h.filled
  readyPhase := by rw [ready, phase, sigIdx]; exact h.readyPhase
  readyFilled := by rw [ready, buf, len]; exact h.readyFilled
  doneReady := fun hd => by rw [ready]; exact h.doneReady (done hd)

end Sys2Proof.Machine
end

