-- ==== Sys2Proof/Tests/Slice0.lean ====
section
/-! SUPPORT. The model's own tests: decoding of words written out from the spec, the checks' smoke tests, single steps whose
expected results are spec/95_test_vectors.md's, and for every obligation with hypotheses a state and operands that meet them. -/

namespace Sys2Proof.Tests

open Sys2Proof.Machine

/-! ## Helpers -/

/-- The class CMD codec of spec/95 with CAP = 32 and a small ENC_MAX_PAYLOAD (vectors E5a, E5b). -/
def cmd32 : Config := .cmd 32 4

/-- The BE decoder and encoder of vectors V20 and E6 (not a documented class). -/
def be32 : Config :=
  { cmd32 with dec := { FrameClass.cmd with order := .be }, enc := { FrameClass.cmd with order := .be } }

/-- A state of `cmd32` in the phase and with the registers given. -/
def at32 (ph : Phase) (sig : BitVec 2) (len : Word16) (wr : Addr) : State :=
  { State.resetWith cmd32 with phase := ph, sigIdx := sig, len := len, wrPtr := wr }

/-- After the twelve bytes of W1: payload FF 00 ready. -/
def readyW1 : State := { at32 .header 0 2 0 with frameReady := true, frameDone := true, buf := [(0, 0xFF), (1, 0x00)] }

/-- The tuple in which spec/95 writes a state, `(phase, sig_idx, len, wr_ptr, frame_ready)`, and `done`. -/
def view (s : State) : BitVec 3 × BitVec 2 × Word16 × Addr × Bool × Bool :=
  (s.phase.code, s.sigIdx, s.len, s.wrPtr, s.frameReady, s.frameDone)

def after (o : Host.Outcome State Fault Refusal) : Option State :=
  match o with
  | .next t => some t
  | .fault _ => none
  | .refused _ => none

def faultOf (o : Host.Outcome State Fault Refusal) : Option Fault :=
  match o with
  | .next _ => none
  | .fault r => some r
  | .refused _ => none

def refusalOf (o : Host.Outcome State Fault Refusal) : Option Refusal :=
  match o with
  | .next _ => none
  | .fault _ => none
  | .refused r => some r

/-! ## Decoding (R66 to R69): words written out bit by bit -/

theorem test_decode_por : decode (.diw 0b1_0000000000) = .ok .por := by rfl
theorem test_decode_por_ignores : decode (.diw 0b1_1111111111) = .ok .por := by rfl
theorem test_decode_reset : decode (.diw 0b01_000000000) = .ok .reset := by rfl
/-- V22's word 0x3FD: RESET, the byte is lost. -/
theorem test_decode_reset_over_byte : decode (.diw 0b01_1_11111101) = .ok .reset := by rfl
/-- P1's word 1FD. -/
theorem test_decode_byte : decode (.diw 0b001_11111101) = .ok (.byte 0xFD) := by rfl
theorem test_decode_idle : decode (.diw 0b000_11111111) = .ok .idle := by rfl
theorem test_decode_take_whole : decode .readAll = .ok (.take .whole) := by rfl
theorem test_decode_take_port : decode (.readPort 0b100001) = .ok (.take (.port 33)) := by rfl
theorem test_decode_enc : decode (.encFrame 0x0061 ⟨2, [0x01, 0x02]⟩) = .ok (.enc 0x0061 ⟨2, [0x01, 0x02]⟩) := by rfl
theorem test_decode_encb : decode (.encByte 0x0061 ⟨2, [0x01, 0x02]⟩ 13) = .ok (.encb 0x0061 ⟨2, [0x01, 0x02]⟩ 13) := by rfl
theorem test_decode_rejects_wide : decode (inputOfWord 16 0x800) = .error .bitsWithoutPort := by rfl
theorem test_table_words :
    decodeTableWord 16 0x400 = some .por ∧ decodeTableWord 16 0x200 = some .reset ∧
    decodeTableWord 16 0x1FD = some (.byte 0xFD) ∧ decodeTableWord 16 0x000 = some .idle := by decide
/-- V22's comparison: `0x1FD` from POR gives (HEADER,1,0,0,0). -/
theorem test_fetch_word : (after (step (State.reset.withFetchWord 16 0x1FD))).map view = some (0, 1, 0, 0, false, false) := by
  decide

/-! ## Well-formedness: every instruction can be presented (`Instr.wf_eq_true`); an ill-formed configuration for each check -/

theorem smoke_documented_classes : (Config.cmd 32 0).wf = true ∧ (Config.rpt 64 0xFFFD).wf = true := by decide
theorem smoke_header_short : ({ cmd32 with dec := { hdr := [1], ftr := [1], order := .le } } : Config).wf = false := by decide
theorem smoke_header_long :
    ({ cmd32 with dec := { hdr := [1, 2, 3, 4, 5], ftr := [1, 2, 3, 4, 5], order := .le } } : Config).wf = false := by decide
theorem smoke_footer_length :
    ({ cmd32 with dec := { hdr := [1, 2], ftr := [1, 2, 3], order := .le } } : Config).wf = false := by decide
/-- C8's header `A B A C`. -/
theorem smoke_header_repeats :
    ({ cmd32 with dec := { hdr := [0xA, 0xB, 0xA, 0xC], ftr := [1, 2, 3, 4], order := .le } } : Config).wf = false := by decide
theorem smoke_third_class :
    ({ cmd32 with dec := { hdr := [0x55, 0xA5], ftr := [1, 2], order := .be } } : Config).wf = false := by decide
theorem smoke_third_class_encoder :
    ({ cmd32 with enc := { hdr := [0x55, 0xA5], ftr := [1, 2], order := .be } } : Config).wf = false := by decide
theorem smoke_capacity : (Config.cmd 31 0).wf = false ∧ (Config.cmd 65 0).wf = false := by decide
theorem smoke_encoder_limit : (Config.cmd 32 0xFFFE).wf = false := by decide

/-! ## Single steps: at most two per instruction, expected results from spec/95 -/

/-- R52, P3: what POR erases and RESET keeps. -/
theorem test_por :
    (after (exec .por readyW1)).map view = some (0, 0, 0, 0, false, false) ∧
    (after (exec .por readyW1)).map State.buf = some [] := by decide
/-- P3 row 9: RESET in PAYLOAD keeps AA BB. -/
theorem test_reset :
    (after (exec .reset { at32 .payload 0 3 2 with buf := [(0, 0xAA), (1, 0xBB)] })).map view =
      some (0, 0, 0, 0, false, false) ∧
    (after (exec .reset { at32 .payload 0 3 2 with buf := [(0, 0xAA), (1, 0xBB)] })).map State.buf =
      some [(0, 0xAA), (1, 0xBB)] := by decide
/-- V9: the mismatch at `sig_idx = 2` is re-examined. -/
theorem test_byte_restart : (after (exec (.byte 0xFD) (at32 .header 2 0 0))).map view = some (0, 1, 0, 0, false, false) := by
  decide
/-- V28: the last payload byte enters FOOTER. -/
theorem test_byte_last_payload :
    (after (exec (.byte 0x00) { at32 .payload 0 2 1 with buf := [(0, 0xFF)] })).map view =
      some (4, 0, 2, 2, false, false) ∧
    (after (exec (.byte 0x00) { at32 .payload 0 2 1 with buf := [(0, 0xFF)] })).map State.buf =
      some [(0, 0xFF), (1, 0x00)] := by decide
/-- V17: IDLE keeps `frame_ready` and clears `frame_done`. -/
theorem test_idle : (after (exec .idle readyW1)).map view = some (0, 0, 2, 0, true, false) := by decide
/-- W1: TAKE answers FF 00. -/
theorem test_take_whole : (after (exec (.take .whole) readyW1)).map State.result = some (.payload 2 [0xFF, 0x00]) := by decide
/-- R101: a read at index `len` is out of range. -/
theorem test_take_port_out_of_range :
    faultOf (exec (.take (.port 2)) readyW1) = some (.preconditionError .outOfRange) := by decide
/-- E2, and E6 with the BE encoder. -/
theorem test_enc :
    (after (exec (.enc 0x0061 ⟨2, [0x01, 0x02]⟩) State.reset)).map State.result =
      some (.frame [0xFD, 0xFC, 0xFB, 0xFA, 0x04, 0x00, 0x61, 0x00, 0x01, 0x02, 0x04, 0x03, 0x02, 0x01] 14 false) ∧
    (after (exec (.enc 0x1234 ⟨1, [0xAA]⟩) (State.resetWith be32))).map State.result =
      some (.frame [0xFD, 0xFC, 0xFB, 0xFA, 0x00, 0x03, 0x12, 0x34, 0xAA, 0x04, 0x03, 0x02, 0x01] 13 false) := by decide
/-- R120, R69: with one byte of two served, the frame holds it, and the other byte is free. -/
theorem test_enc_unserved :
    ∃ b t, exec (.enc 0x0061 ⟨2, [0x01]⟩) State.reset = .next t ∧ t.freeCount = 1 ∧
      t.result = .frame [0xFD, 0xFC, 0xFB, 0xFA, 0x04, 0x00, 0x61, 0x00, 0x01, b, 0x04, 0x03, 0x02, 0x01] 14 false :=
  ⟨_, _, rfl, rfl, rfl⟩
/-- E7 at j = 9: the payload byte, `enc_pay_addr` = 1, T = 14. -/
theorem test_encb_payload :
    (after (exec (.encb 0x0061 ⟨2, [0x01, 0x02]⟩ 9) State.reset)).map State.result =
      some (.encByte { byte := 0x02, payAddr := 1, total := 14, valid := true, err := false }) := by decide
/-- E7b: j = T is refused. -/
theorem test_encb_beyond : refusalOf (exec (.encb 0x0061 ⟨2, [0x01, 0x02]⟩ 14) State.reset) = some .encIndexBeyondFrame := by decide

/-! ## Witnesses: states and operands that meet the obligations' hypotheses, at boundary values where there are clauses -/

theorem good_reset : GoodState (State.resetWith cmd32) where
  cfgWf := by decide
  phaseLegal := rfl
  sigRange := by decide
  sigZero := fun _ _ => rfl
  lenBound := fun _ => by decide
  ptrZero := fun _ => rfl
  ptrPayload := by decide
  ptrFooter := by decide
  bufWf := by decide
  bufRange := by decide
  filled := fun h => absurd h (by decide)
  readyPhase := by decide
  readyFilled := fun h => absurd h (by decide)
  doneReady := by decide

theorem good_ready : GoodState readyW1 where
  cfgWf := by decide
  phaseLegal := rfl
  sigRange := by decide
  sigZero := fun _ _ => rfl
  lenBound := fun _ => by decide
  ptrZero := fun _ => rfl
  ptrPayload := by decide
  ptrFooter := by decide
  bufWf := by decide
  bufRange := by decide
  filled := fun h => absurd h (by decide)
  readyPhase := fun _ => ⟨rfl, rfl⟩
  readyFilled := fun _ => by
    have h : ∀ i, i < 2 → (readyW1.buf.read i).isSome = true := by decide
    exact h
  doneReady := fun _ => rfl

/-- Three header bytes matched, the previous frame's `len` still held (P4). -/
theorem good_header3 : GoodState (at32 .header 3 31 0) where
  cfgWf := by decide
  phaseLegal := rfl
  sigRange := by decide
  sigZero := by decide
  lenBound := fun _ => by decide
  ptrZero := fun _ => rfl
  ptrPayload := by decide
  ptrFooter := by decide
  bufWf := by decide
  bufRange := by decide
  filled := fun h => absurd h (by decide)
  readyPhase := by decide
  readyFilled := fun h => absurd h (by decide)
  doneReady := by decide

theorem witness_step_runs_decoded :
    (∃ (s : State) (x : Input) (rest : List Input) (i : Instr), s.cfg.wf = true ∧ s.input = x :: rest ∧ decode x = .ok i ∧ i = Instr.byte 0xFF) ∧
    (∃ (s : State) (x : Input) (rest : List Input) (e : DecodeError), s.cfg.wf = true ∧ s.input = x :: rest ∧ decode x = .error e) :=
  ⟨⟨{ State.reset with input := [.diw 0x1FF] }, _, [], _, by decide, rfl, rfl, rfl⟩,
    ⟨{ State.reset with input := [.unmapped 0x800] }, _, [], _, by decide, rfl, rfl⟩⟩

theorem witness_step_idles : ∃ s : State, s.cfg.wf = true ∧ s.input = [] := ⟨State.reset, by decide, rfl⟩

theorem witness_fetched_word_runs : ∃ (s : State) (w : Nat), s.cfg.wf = true ∧ w < 2 ^ 11 ∧ w = 2047 :=
  ⟨State.reset, 2047, by decide, by decide, rfl⟩

theorem witness_bad_configuration : ∃ s : State, step s = .refused .configRefused :=
  ⟨State.resetWith (.cmd 65 0), rfl⟩

/-- One word at the top of each clause of R67's table; no word meets two clauses, by the masks. -/
theorem witness_diw_clauses :
    (0x7FF : Diw) &&& 0x400 = 0x400 ∧ (0x3FF : Diw) &&& 0x600 = 0x200 ∧ (0x1FF : Diw) &&& 0x700 = 0x100 ∧
    (0x0FF : Diw) &&& 0x700 = 0x000 := by decide

theorem witness_encode_decode :
    decode (.encFrame 0xFFFF ⟨1, [0xFF]⟩) = .ok (.enc 0xFFFF ⟨1, [0xFF]⟩) ∧ (∀ w, Input.encFrame 0xFFFF ⟨1, [0xFF]⟩ ≠ .diw w) ∧
    decode (.diw 0x1FF) = .ok (.byte 0xFF) := ⟨rfl, fun _ h => (by cases h), rfl⟩

theorem witness_soft_reset_loses :
    ∃ (s : State) (rest : List Input) (d : Byte), s.cfg.wf = true ∧ s.input = .diw (0x300 ||| d.zeroExtend 11) :: rest :=
  ⟨{ State.reset with input := [.diw 0x3FD] }, [], 0xFD, by decide, by decide⟩

theorem witness_por_word : (0x400 : Diw) &&& 0x400 = 0x400 ∧ (0x200 : Diw) &&& 0x600 = 0x200 ∧ (0 : Diw) &&& 0x700 = 0 := by
  decide

theorem witness_header_matches :
    (∃ (s : State) (d : Byte), s.phase = .header ∧ s.cfg.dec.hdr[s.sigIdx.toNat]? = some d ∧
      s.sigIdx.toNat + 1 = s.cfg.dec.hdr.length) ∧
    (∃ (s : State) (d : Byte), s.phase = .header ∧ s.cfg.dec.hdr[s.sigIdx.toNat]? = some d ∧
      s.sigIdx.toNat + 1 ≠ s.cfg.dec.hdr.length) :=
  ⟨⟨at32 .header 3 0 0, 0xFA, by decide⟩, ⟨at32 .header 0 0 0, 0xFD, by decide⟩⟩

theorem witness_header_mismatches :
    (∃ (s : State) (d h0 h : Byte), s.phase = .header ∧ s.cfg.dec.hdr[0]? = some h0 ∧
      s.cfg.dec.hdr[s.sigIdx.toNat]? = some h ∧ d ≠ h ∧ d = h0) ∧
    (∃ (s : State) (d h0 h : Byte), s.phase = .header ∧ s.cfg.dec.hdr[0]? = some h0 ∧
      s.cfg.dec.hdr[s.sigIdx.toNat]? = some h ∧ d ≠ h ∧ d ≠ h0) :=
  ⟨⟨at32 .header 2 0 0, 0xFD, 0xFD, 0xFB, by decide⟩, ⟨at32 .header 0 0 0, 0x00, 0xFD, 0xFD, by decide⟩⟩

/-- A two-byte class (R9, H = 2) at `sig_idx = 2`, in either phase. -/
theorem witness_index_beyond :
    (∃ s : State, s.cfg.wf = true ∧ s.phase = .header ∧ s.cfg.dec.hdr[0]? = some 0x0A ∧
      s.cfg.dec.hdr.length ≤ s.sigIdx.toNat) ∧
    (∃ s : State, s.cfg.wf = true ∧ s.phase = .footer ∧ s.cfg.dec.ftr.length ≤ s.sigIdx.toNat) :=
  ⟨⟨{ State.resetWith { cmd32 with dec := { hdr := [0x0A, 0x0B], ftr := [0x0A, 0x0A], order := .be } } with
        phase := .header, sigIdx := 2 }, by decide⟩,
    ⟨{ State.resetWith { cmd32 with dec := { hdr := [0x0A, 0x0B], ftr := [0x0A, 0x0A], order := .be } } with
        phase := .footer, sigIdx := 2 }, by decide⟩⟩

theorem witness_first_length :
    (∃ s : State, s.phase = .len0 ∧ s.cfg.dec.order = .le) ∧ (∃ s : State, s.phase = .len0 ∧ s.cfg.dec.order = .be) :=
  ⟨⟨at32 .len0 0 0 0, by decide⟩, ⟨{ State.resetWith be32 with phase := .len0 }, by decide⟩⟩

/-- V5 (`L = CAP`), V4 (`L = CAP - 1`), V2 (`L = 0`) and V20b (BE, `L = 0x0200`). -/
theorem witness_second_length :
    (∃ (s : State) (d : Byte) (L : Word16), s.phase = .len1 ∧ s.cfg.dec.order = .le ∧ L = s.len ||| (BitVec.zeroExtend 16 (d : Byte) <<< 8) ∧
      L.toNat = s.cfg.cap) ∧
    (∃ (s : State) (d : Byte) (L : Word16), s.phase = .len1 ∧ s.cfg.dec.order = .le ∧ L = s.len ||| (BitVec.zeroExtend 16 (d : Byte) <<< 8) ∧
      L.toNat + 1 = s.cfg.cap) ∧
    (∃ (s : State) (d : Byte) (L : Word16), s.phase = .len1 ∧ s.cfg.dec.order = .le ∧ L = s.len ||| (BitVec.zeroExtend 16 (d : Byte) <<< 8) ∧ L = 0) ∧
    (∃ (s : State) (d : Byte) (L : Word16), s.phase = .len1 ∧ s.cfg.dec.order = .be ∧ L = s.len ||| BitVec.zeroExtend 16 (d : Byte) ∧
      s.cfg.cap ≤ L.toNat) :=
  ⟨⟨at32 .len1 0 32 0, 0, 32, by decide⟩, ⟨at32 .len1 0 31 0, 0, 31, by decide⟩, ⟨at32 .len1 0 0 0, 0, 0, by decide⟩,
    ⟨{ State.resetWith be32 with phase := .len1, len := 0x0200 }, 0, 0x0200, by decide⟩⟩

/-- V4's last cell 30, and a byte that is not the last. -/
theorem witness_payload_stored :
    (∃ s : State, s.phase = .payload ∧ s.wrPtr.toNat < s.len.toNat ∧ s.len.toNat < s.cfg.cap ∧
      s.wrPtr.toNat + 1 = s.len.toNat) ∧
    (∃ s : State, s.phase = .payload ∧ s.wrPtr.toNat < s.len.toNat ∧ s.len.toNat < s.cfg.cap ∧
      s.wrPtr.toNat + 1 ≠ s.len.toNat) :=
  ⟨⟨at32 .payload 0 31 30, by decide⟩, ⟨at32 .payload 0 31 0, by decide⟩⟩

theorem witness_corrupt_recovers :
    (∃ s : State, s.phase = .payload ∧ s.len.toNat ≤ s.wrPtr.toNat) ∧
    (∃ s : State, s.phase = .payload ∧ s.cfg.cap ≤ s.len.toNat) ∧
    (∃ s : State, s.phase.code = 5) ∧ (∃ s : State, s.phase.code = 6) ∧ (∃ s : State, s.phase.code = 7) :=
  ⟨⟨at32 .payload 0 2 2, by decide⟩, ⟨at32 .payload 0 32 0, by decide⟩, ⟨at32 .illegal5 0 0 0, by decide⟩,
    ⟨at32 .illegal6 0 0 0, by decide⟩, ⟨at32 .illegal7 0 0 0, by decide⟩⟩

theorem witness_footer_matches :
    ∃ (s : State) (d : Byte), s.phase = .footer ∧ s.cfg.dec.ftr[s.sigIdx.toNat]? = some d ∧
      s.sigIdx.toNat < s.cfg.dec.ftr.length - 1 := ⟨at32 .footer 2 2 2, 0x02, by decide⟩

theorem witness_last_footer :
    ∃ (s : State) (d : Byte), s.phase = .footer ∧ s.cfg.dec.ftr[s.sigIdx.toNat]? = some d ∧
      s.sigIdx.toNat = s.cfg.dec.ftr.length - 1 := ⟨at32 .footer 3 2 2, 0x01, by decide⟩

/-- V12's `FD` in the footer, and V25's last byte. -/
theorem witness_footer_mismatches :
    (∃ (s : State) (d f : Byte), s.phase = .footer ∧ s.cfg.dec.ftr[s.sigIdx.toNat]? = some f ∧ d ≠ f ∧ s.sigIdx = 1) ∧
    (∃ (s : State) (d f : Byte), s.phase = .footer ∧ s.cfg.dec.ftr[s.sigIdx.toNat]? = some f ∧ d ≠ f ∧ s.sigIdx = 3) :=
  ⟨⟨at32 .footer 1 0 0, 0xFD, 0x03, by decide⟩, ⟨at32 .footer 3 0 0, 0x00, 0x01, by decide⟩⟩

theorem witness_byte_frame :
    (∃ (s t : State) (d : Byte), exec (.byte d) s = .next t ∧ byteRule d s = .payloadByte) ∧
    (∃ (s t : State) (d : Byte), exec (.byte d) s = .next t ∧ byteRule d s ≠ .payloadByte) :=
  ⟨⟨at32 .payload 0 31 30, _, 0x00, rfl, by decide⟩, ⟨at32 .footer 3 0 0, _, 0x01, rfl, by decide⟩⟩

theorem witness_read_encode_frame :
    (∃ t, exec (.take .whole) readyW1 = .next t) ∧ (∃ t, exec (.take (.port 1)) readyW1 = .next t) ∧
    (∃ t, exec (.enc 0 ⟨0, []⟩) readyW1 = .next t) ∧ (∃ t, exec (.encb 0 ⟨0, []⟩ 11) readyW1 = .next t) :=
  ⟨⟨_, rfl⟩, ⟨_, rfl⟩, ⟨_, rfl⟩, ⟨_, rfl⟩⟩

/-- One state for each of codes 1 to 4. -/
theorem witness_silent_events :
    (byteRule 0x00 (at32 .header 0 0 0)).condition = some .resyncHeader ∧
    (byteRule 0x00 (at32 .len1 0 32 0)).condition = some .resyncLength ∧
    (byteRule 0x00 (at32 .footer 3 0 0)).condition = some .resyncFooter ∧
    (byteRule 0x00 (at32 .payload 0 2 2)).condition = some .resyncInvariant ∧
    (byteRule 0xFD (at32 .illegal5 0 0 0)).condition = some .resyncInvariant := by decide

theorem witness_error_codes :
    exec (.take .whole) State.reset = .fault (.preconditionError .notReady) ∧
    (∃ (s : State) (plen : Word16), s.cfg.encMaxPayload < plen.toNat) ∧ (∃ s : State, s.cfg.wf = false) :=
  ⟨rfl, ⟨State.resetWith cmd32, 5, by decide⟩, ⟨State.resetWith (.cmd 31 0), by decide⟩⟩

theorem witness_flag_rules :
    (∃ t, exec (.byte 0x01) (at32 .footer 3 0 0) = .next t) ∧ (∃ t, exec .por readyW1 = .next t) ∧
    (∃ t, exec .reset readyW1 = .next t) ∧ (∃ t, exec .idle readyW1 = .next t) ∧
    (∃ t, exec (.take (.port 0)) readyW1 = .next t) ∧ (∃ t, exec (.enc 0 ⟨5, [1, 2, 3, 4, 5]⟩) readyW1 = .next t) ∧
    (∃ t, exec (.encb 0 ⟨0, []⟩ 0) readyW1 = .next t) := ⟨⟨_, rfl⟩, ⟨_, rfl⟩, ⟨_, rfl⟩, ⟨_, rfl⟩, ⟨_, rfl⟩, ⟨_, rfl⟩, ⟨_, rfl⟩⟩

/-- A read that completes, one that faults, an index inside the frame and one beyond it, before any idle clock. -/
theorem witness_idle_clocks :
    (∃ t, exec (.take .whole) readyW1 = .next t) ∧
    exec (.take (.port 2)) readyW1 = .fault (.preconditionError .outOfRange) ∧
    (∃ t, exec (.encb 0 ⟨0, []⟩ 11) readyW1 = .next t) ∧ exec (.encb 0 ⟨0, []⟩ 12) readyW1 = .refused .encIndexBeyondFrame :=
  ⟨⟨_, rfl⟩, rfl, ⟨_, rfl⟩, rfl⟩

theorem witness_take_returns :
    readyW1.frameReady = true ∧ readyW1.len.toNat ≤ readyW1.cfg.cap ∧ readyW1.buf.writtenBelow readyW1.len.toNat :=
  ⟨rfl, by decide, good_ready.readyFilled rfl⟩

/-- The last index below `len`. -/
theorem witness_read_port :
    readyW1.frameReady = true ∧ (1 : Addr).toNat + 1 = readyW1.len.toNat ∧ (1 : Addr).toNat < readyW1.cfg.cap ∧
    readyW1.buf.read (1 : Addr).toNat = some 0x00 := by decide

/-- One state for each clause; the fifth is a corrupt state. -/
theorem witness_read_outside :
    State.reset.frameReady = false ∧
    (readyW1.frameReady = true ∧ readyW1.len.toNat ≤ (2 : Addr).toNat) ∧
    (∃ s : State, s.frameReady = true ∧ (1 : Addr).toNat < s.len.toNat ∧ (1 : Addr).toNat < s.cfg.cap ∧
      s.buf.read (1 : Addr).toNat = none) ∧
    (∃ s : State, s.frameReady = true ∧ s.len.toNat ≤ s.cfg.cap ∧ 1 < s.len.toNat ∧ s.buf.read 1 = none) ∧
    (∃ s : State, s.frameReady = true ∧ s.cfg.cap < s.len.toNat) :=
  ⟨rfl, by decide, ⟨{ readyW1 with buf := [(0, 0xFF)] }, by decide⟩, ⟨{ readyW1 with buf := [(0, 0xFF)] }, by decide⟩,
    ⟨{ readyW1 with len := 33 }, by decide⟩⟩

theorem witness_read_port_value :
    (31 : Addr).toNat < readyW1.cfg.cap ∧ readyW1.cfg.cap ≤ (32 : Addr).toNat ∧
    (∃ t, exec (.take .whole) readyW1 = .next t) := ⟨by decide, by decide, ⟨_, rfl⟩⟩

theorem witness_read_window :
    ∃ r, exec (.take .whole) readyW1 = .next r ∧ (∃ t, exec .idle readyW1 = .next t) ∧ (∃ t, exec .reset readyW1 = .next t) ∧
      (∃ t, exec (.byte 0x00) readyW1 = .next t ∧ t.frameDone = false) := ⟨_, rfl, ⟨_, rfl⟩, ⟨_, rfl⟩, ⟨_, rfl, by decide⟩⟩

/-- E5b: P = ENC_MAX_PAYLOAD, every byte served; and none served. -/
theorem witness_enc_builds :
    (State.resetWith cmd32).cfg.wf = true ∧ (4 : Word16).toNat = (State.resetWith cmd32).cfg.encMaxPayload ∧
    (4 : Word16).toNat ≤ [1, 2, 3, (4 : Byte)].length ∧ ¬ ((4 : Word16).toNat ≤ ([] : List Byte).length) ∧
    [1, 2, 3, (4 : Byte)][3]? = some 4 := by decide

/-- P = ENC_MAX_PAYLOAD, P = ENC_MAX_PAYLOAD + 1, and the first length that `enc_plen` cannot show. -/
theorem witness_enc_any_payload :
    (State.resetWith cmd32).cfg.wf = true ∧ [1, 2, 3, (4 : Byte)].length = (State.resetWith cmd32).cfg.encMaxPayload ∧
    [1, 2, 3, 4, (5 : Byte)].length = (State.resetWith cmd32).cfg.encMaxPayload + 1 ∧
    ∃ p : List Byte, p.length = 65536 ∧ (State.resetWith cmd32).cfg.encMaxPayload < p.length :=
  ⟨by decide, by decide, by decide, List.replicate 65536 0, List.length_replicate,
    by rw [List.length_replicate]; exact of_decide_eq_true rfl⟩

/-- E5a: P = ENC_MAX_PAYLOAD + 1. -/
theorem witness_capacity_error : (5 : Word16).toNat = (State.resetWith cmd32).cfg.encMaxPayload + 1 := by decide

/-- The first index, the second payload byte and the last index of E2's frame. -/
theorem witness_encb_agrees :
    (2 : Word16).toNat ≤ State.reset.cfg.encMaxPayload ∧
    (13 : Index17).toNat + 1 =
      State.reset.cfg.enc.hdr.length + 4 + (2 : Word16).toNat + State.reset.cfg.enc.ftr.length ∧
    (0 : Index17).toNat < State.reset.cfg.enc.hdr.length ∧
    (9 : Index17).toNat + 1 = State.reset.cfg.enc.hdr.length + 4 + (2 : Word16).toNat := by decide

/-- E7b: j = T. -/
theorem witness_encb_beyond :
    ∃ (s : State) (plen : Word16) (j : Index17), plen.toNat ≤ s.cfg.encMaxPayload ∧
      s.cfg.enc.hdr.length + 4 + plen.toNat + s.cfg.enc.ftr.length = j.toNat := ⟨State.reset, 2, 14, by decide⟩

theorem witness_enc_total :
    cmd32.wf = true ∧ (4 : Word16).toNat ≤ cmd32.encMaxPayload ∧ cmd32.encMaxPayload < (5 : Word16).toNat := by decide

theorem witness_encoder_inputs :
    ∃ s s' : State, s ≠ s' ∧ s.cfg.enc = s'.cfg.enc ∧ s.cfg.encMaxPayload = s'.cfg.encMaxPayload ∧
      s.freeCount = s'.freeCount ∧ (1 : Word16).toNat ≤ [(0xFF : Byte)].length :=
  ⟨State.resetWith cmd32, { readyW1 with cfg := .rpt 64 4 }, by decide⟩

theorem witness_invariant_at_reset : ∃ c : Config, c.wf = true := ⟨.rpt 64 0xFFFD, by decide⟩

theorem witness_step_keeps_invariant : GoodState readyW1 ∧ ∃ t, step readyW1 = .next t := ⟨good_ready, _, rfl⟩

theorem witness_reachable :
    ∃ (c : Config) (ops : List Input) (t : State), c.wf = true ∧
      runSteps 1 { State.resetWith c with input := ops } = .next t := ⟨cmd32, [.diw 0x1FD], _, by decide, rfl⟩

theorem witness_only_reads_fault :
    GoodState readyW1 ∧ ¬ ReadAllowed (.port 2) readyW1 ∧ ReadAllowed (.port 1) readyW1 :=
  ⟨good_ready, fun h => absurd (h.2 2 rfl) (by decide), rfl, fun a h => by cases h; decide⟩

theorem witness_only_encb_refuses : ∃ r, exec (.encb 0 ⟨0, []⟩ 12) State.reset = .refused r := ⟨_, rfl⟩

theorem witness_configuration_kept : ∃ t, runSteps 1 State.reset = .next t := ⟨_, rfl⟩

theorem witness_run_over_bytes :
    ∃ (s : State) (bs : List Byte) (rest : List Input), s.cfg.wf = true ∧ bs ≠ [] ∧
      s.input = (bs.map fun b => encode (.byte b)) ++ rest :=
  ⟨{ State.reset with input := [.diw 0x1FD, .readAll] }, [0xFD], [.readAll], by decide, by decide, by decide⟩

/-- The longest admitted payload, from three matched header bytes. -/
theorem witness_frame_completes :
    GoodState (at32 .header 3 31 0) ∧ (at32 .header 3 31 0).phase = .header ∧
    (List.replicate 31 (0xFD : Byte)).length + 1 = (at32 .header 3 31 0).cfg.cap := ⟨good_header3, by decide, by decide⟩

/-- V2's zero-length frame. -/
theorem witness_completion :
    ∃ t ds, GoodState (State.resetWith cmd32) ∧
      feed [0xFD, 0xFC, 0xFB, 0xFA, 0x00, 0x00, 0x04, 0x03, 0x02, 0x01] (State.resetWith cmd32) = .next (t, ds) ∧
      t.frameDone = true := ⟨_, _, good_reset, rfl, by decide⟩

/-- V23's noise, and the three bytes that a fourth would complete. -/
theorem witness_noise :
    GoodState (at32 .header 3 31 0) ∧
    ¬ (cmd32.dec.hdr <:+: cmd32.dec.hdr.take (3 : BitVec 2).toNat ++ [0xFD, 0xFC, 0xFB, 0x00]) ∧
    ¬ (cmd32.dec.hdr <:+: [0x00, 0x11, 0xFC, 0xFB, 0xFA, 0x04, 0x03, 0x02, 0x01, 0xFD, 0xFC, 0xFB, 0x00]) :=
  ⟨good_header3, by decide, by decide⟩

theorem witness_header_search :
    ∃ t ds, GoodState (State.resetWith cmd32) ∧ ¬ (cmd32.dec.hdr <:+: [0xFD, 0xFC, 0xFD]) ∧
      feed [0xFD, 0xFC, 0xFD] (State.resetWith cmd32) = .next (t, ds) := ⟨_, _, good_reset, by decide, rfl⟩

/-- V5: `L = CAP`. -/
theorem witness_oversize :
    GoodState (at32 .header 3 31 0) ∧ (at32 .header 3 31 0).cfg.cap = (32 : Word16).toNat := ⟨good_header3, by decide⟩

/-- A payload of ENC_MAX_PAYLOAD = 4 bytes, inside both bounds. -/
theorem witness_round_trip :
    GoodState (at32 .header 3 31 0) ∧ (at32 .header 3 31 0).cfg.dec = (at32 .header 3 31 0).cfg.enc ∧
    [1, 2, 3, (4 : Byte)].length = cmd32.encMaxPayload ∧ [1, 2, 3, (4 : Byte)].length ≤ cmd32.cap - 3 :=
  ⟨good_header3, rfl, by decide, by decide⟩

/-- E8b: P = CAP - 2, with ENC_MAX_PAYLOAD = 0xFFFD. -/
theorem witness_bound_is_sharp :
    GoodState State.reset ∧ State.reset.cfg.dec = State.reset.cfg.enc ∧
    (List.replicate 30 (0x10 : Byte)).length = State.reset.cfg.cap - 2 ∧
    (List.replicate 30 (0x10 : Byte)).length ≤ State.reset.cfg.encMaxPayload :=
  ⟨{ good_reset with
      cfgWf := by decide
      sigRange := by decide
      lenBound := fun _ => by decide
      bufRange := by decide }, rfl, by decide, by decide⟩

end Sys2Proof.Tests
end

section
/-! PROOFS. The step and the refused configurations (spec/00_scope.md R8 to R10): what a step of a block can answer, and R10
spelled out. -/

namespace Sys2Proof

/-- The third frame class by its first two header bytes (R65, log 11). -/
theorem FrameClass.third_eq_false_iff (c : FrameClass) :
    c.third = false ↔ ¬ (c.hdr[0]? = some 0x55 ∧ c.hdr[1]? = some 0xA5) := by
  unfold FrameClass.third
  match c.hdr with
  | [] => simp
  | [_] => simp
  | _ :: _ :: _ => simp

/-- R10 for one frame class, with distinctness and the third class read off the header's positions. -/
theorem FrameClass.wf_iff_positions (c : FrameClass) :
    c.wf = true ↔
      2 ≤ c.hdr.length ∧ c.hdr.length ≤ 4 ∧ c.ftr.length = c.hdr.length ∧
      (∀ i j : Nat, i < j → j < c.hdr.length → c.hdr[i]? ≠ c.hdr[j]?) ∧
      ¬ (c.hdr[0]? = some 0x55 ∧ c.hdr[1]? = some 0xA5) := by
  rw [c.wf_iff, List.nodup_iff_getElem?_ne_getElem?, c.third_eq_false_iff]

/-- R10 asks the same of the decoder's and the encoder's class; the rest are R9's ranges. -/
theorem Config.wf_iff_classes (c : Config) :
    c.wf = true ↔
      (∀ k, k = c.dec ∨ k = c.enc → k.wf = true) ∧ 32 ≤ c.cap ∧ c.cap ≤ 64 ∧ c.encMaxPayload ≤ 0xFFFD := by
  rw [c.wf_iff, forall_eq_or_imp, forall_eq, and_assoc]

end Sys2Proof

namespace Sys2Proof.Machine

/-- TAKE answers or faults; it refuses nothing (R101). -/
theorem execTake_ne_refused (form : ReadForm) (s : State) (r : Refusal) : execTake form s ≠ .refused r := by
  rcases execTake_setDone form s false with ⟨_, e, -⟩ | ⟨_, e, -⟩ <;> simp [e]

/-- What a refusal of an operation can be: ENCB beyond the frame (R124). -/
theorem exec_refused {i : Instr} {s : State} {r : Refusal} (h : exec i s = .refused r) :
    ∃ cmd p j, i = .encb cmd p j ∧ capacityExceeded s.cfg p.plen.toNat = false ∧
      encLength s.cfg.enc p.plen.toNat ≤ j.toNat ∧ r = .encIndexBeyondFrame := by
  cases i with
  | por | reset | byte | idle => cases h
  | take form => exact absurd h (execTake_ne_refused form s r)
  | enc cmd p =>
    obtain ⟨_, _, e, -⟩ := execEnc_next cmd p s
    cases e.symm.trans h
  | encb cmd p j =>
    rcases execEncb_cases cmd p j s with ⟨hc, hj, e⟩ | ⟨-, _, e, -⟩
    · cases e.symm.trans h
      exact ⟨cmd, p, j, rfl, hc, hj, rfl⟩
    · cases e.symm.trans h

/-- There is no machine of an ill-formed configuration (R10). -/
theorem step_of_not_wf {s : State} (hc : ¬ s.cfg.wf = true) : step s = .refused .configRefused := if_neg hc

/-- One step of a well-formed block whose next presentation is no operation. -/
theorem step_of_decode_error {s : State} {e : DecodeError} (hc : s.cfg.wf = true) (hd : decode s.fetch.1 = .error e) :
    step s = .refused (.notAnOperation e) := by simp [step, hc, hd]

/-- `configRefused` tells the ill-formed configurations apart: no decoded operation and no rejected presentation answers it. -/
theorem step_eq_configRefused_iff (s : State) : step s = .refused .configRefused ↔ ¬ s.cfg.wf = true := by
  refine ⟨fun h hc => ?_, step_of_not_wf⟩
  cases hd : decode s.fetch.1 with
  | error e => cases (step_of_decode_error hc hd).symm.trans h
  | ok i =>
    obtain ⟨_, _, _, -, -, -, hr⟩ := exec_refused ((step_of_decode hc hd).symm.trans h)
    cases hr

end Sys2Proof.Machine

open Sys2Proof Sys2Proof.Machine

/-- Settles O4: `configRefused` is answered for an ill-formed configuration only, and R10 is spelled out class by class. -/
theorem badConfigurationRefused : Obligations.BadConfigurationRefused := by
  intro s
  simp only [step_eq_configRefused_iff, Config.wf_iff_classes, FrameClass.wf_iff_positions]

/-- Settles O1: the first presentation is what a step fetches, and the step follows what the decoder says of it. -/
theorem stepRunsDecodedOperation : Obligations.StepRunsDecodedOperation := by
  intro s x rest hc hx
  have hf := s.fetch_cons x rest hx
  constructor
  · intro i hi
    have hd : decode s.fetch.1 = .ok i := by rw [hf, hi]
    exact ⟨i.wf_eq_true, by rw [step_of_decode hc hd, hf]⟩
  · intro e he
    exact step_of_decode_error hc (by rw [hf, he])
end

section
/-! PROOFS. The state (spec/10_state.md R20 to R34): what each operation writes, what a run keeps, and the invariant of R31 phase by
phase. -/

namespace Sys2Proof.Machine

/-! ### BYTE: which fields it writes -/

/-- R93's guard selects the storing rule, and nothing else does. -/
theorem byteRule_eq_payloadByte_iff (d : Byte) (s : State) :
    byteRule d s = .payloadByte ↔ s.phase = .payload ∧ s.wrPtr.toNat < s.len.toNat ∧ s.len.toNat < s.cfg.cap := by
  refine ⟨fun h => ?_, fun ⟨hp, hr⟩ => by simp [byteRule, hp, hr]⟩
  have hc := byteRule_cases d s
  simpa [h] using hc

/-- The last footer byte in FOOTER selects the completing rule R96, and nothing else does. -/
theorem byteRule_eq_frameComplete_iff (d : Byte) (s : State) :
    byteRule d s = .frameComplete ↔
      s.phase = .footer ∧ s.sigIdx.toNat + 1 = s.cfg.dec.ftr.length ∧ s.cfg.dec.ftr[s.sigIdx.toNat]? = some d := by
  refine ⟨fun h => ?_, fun ⟨hp, hl, hd⟩ => by simp [byteRule, hp, footerMatches_iff, hl, hd]⟩
  have hc := byteRule_cases d s
  simpa [h, and_comm] using hc

/-- What BYTE writes beside the four parse registers: the buffer only under R93, the flags and the output by R96 alone. -/
theorem byteNext_writes (d : Byte) (s : State) :
    ∃ phase sigIdx len wrPtr, byteNext d s =
      { s with
        phase := phase, sigIdx := sigIdx, len := len, wrPtr := wrPtr
        buf := if byteRule d s = .payloadByte then s.buf.write s.wrPtr.toNat d else s.buf
        frameReady := decide (byteRule d s = .frameComplete)
        frameDone := decide (byteRule d s = .frameComplete)
        result := .done (decide (byteRule d s = .frameComplete)) } := by
  cases r : byteRule d s with
  | headerMatch => exact ⟨_, _, _, _, byteNext_headerMatch r⟩
  | headerMismatch => exact ⟨_, _, _, _, byteNext_headerMismatch r⟩
  | firstLength => exact ⟨_, _, _, _, byteNext_firstLength r⟩
  | lengthRejected => exact ⟨_, _, _, _, byteNext_resync (.inl r)⟩
  | lengthAccepted => exact ⟨_, _, _, _, byteNext_lengthAccepted r⟩
  | payloadByte => exact ⟨_, _, _, _, byteNext_payloadByte r⟩
  | payloadViolation => exact ⟨_, _, _, _, byteNext_resync (.inr (.inl r))⟩
  | footerMatch => exact ⟨_, _, _, _, byteNext_footerMatch r⟩
  | frameComplete => exact ⟨_, _, _, _, byteNext_frameComplete r⟩
  | footerMismatch => exact ⟨_, _, _, _, byteNext_resync (.inr (.inr (.inl r)))⟩
  | illegalPhase => exact ⟨_, _, _, _, byteNext_resync (.inr (.inr (.inr r)))⟩

theorem byteNext_buf (d : Byte) (s : State) :
    (byteNext d s).buf = if byteRule d s = .payloadByte then s.buf.write s.wrPtr.toNat d else s.buf := by
  obtain ⟨_, _, _, _, e⟩ := byteNext_writes d s
  rw [e]

@[simp] theorem byteNext_frameReady (d : Byte) (s : State) :
    (byteNext d s).frameReady = decide (byteRule d s = .frameComplete) := by
  obtain ⟨_, _, _, _, e⟩ := byteNext_writes d s
  rw [e]

@[simp] theorem byteNext_frameDone (d : Byte) (s : State) :
    (byteNext d s).frameDone = decide (byteRule d s = .frameComplete) := by
  obtain ⟨_, _, _, _, e⟩ := byteNext_writes d s
  rw [e]

@[simp] theorem byteNext_result (d : Byte) (s : State) :
    (byteNext d s).result = .done (decide (byteRule d s = .frameComplete)) := by
  obtain ⟨_, _, _, _, e⟩ := byteNext_writes d s
  rw [e]

@[simp] theorem byteNext_freeCount (d : Byte) (s : State) : (byteNext d s).freeCount = s.freeCount := by
  obtain ⟨_, _, _, _, e⟩ := byteNext_writes d s
  rw [e]

/-! ### One operation, one step, a run -/

/-- The operations that take no clock edge: reads of the buffer and of the encoder (R163, log 6). -/
def Unclocked : Instr → Prop
  | .take _ | .enc _ _ | .encb _ _ _ => True
  | .por | .reset | .byte _ | .idle => False

/-- An operation without a clock edge writes the step's output and the counter of free values only. -/
theorem exec_next_of_unclocked {i : Instr} {s t : State} (hi : Unclocked i) (h : exec i s = .next t) :
    ∃ r n, t = { s with result := r, freeCount := n } := by
  cases i with
  | por | reset | byte | idle => exact hi.elim
  | take form =>
    obtain ⟨r, e⟩ := execTake_next h
    exact ⟨r, s.freeCount, e⟩
  | enc cmd p =>
    obtain ⟨r, v, e, -⟩ := execEnc_next cmd p s
    cases e.symm.trans h
    exact ⟨r, _, rfl⟩
  | encb cmd p j =>
    rcases execEncb_cases cmd p j s with ⟨-, -, e⟩ | ⟨-, v, e, -⟩
    · cases e.symm.trans h
    · cases e.symm.trans h
      exact ⟨_, _, rfl⟩

/-- No operation writes the configuration (R30). -/
theorem exec_cfg {i : Instr} {s t : State} (h : exec i s = .next t) : t.cfg = s.cfg := by
  cases i with
  | por | reset | idle => cases h; rfl
  | byte d => cases h; exact byteNext_cfg d s
  | take | enc | encb =>
    obtain ⟨_, _, e⟩ := exec_next_of_unclocked (by exact trivial) h
    rw [e]

/-- A step that answers a next state has run the decoded operation on the state whose presentation is taken. -/
theorem step_next {s t : State} (h : step s = .next t) :
    ∃ i, exec i { s with input := s.input.tail } = .next t := by
  by_cases hc : s.cfg.wf = true
  · cases hd : decode s.fetch.1 with
    | ok i => exact ⟨i, by rw [← s.fetch_state, ← step_of_decode hc hd, h]⟩
    | error e => cases (step_of_decode_error hc hd).symm.trans h
  · cases (step_of_not_wf hc).symm.trans h

theorem step_cfg {s t : State} (h : step s = .next t) : t.cfg = s.cfg := by
  obtain ⟨i, e⟩ := step_next h
  exact (exec_cfg e).trans rfl

/-- What every step keeps, a run keeps. -/
theorem runSteps_keeps {P : State → Prop} (keeps : ∀ s t, P s → step s = .next t → P t) {n : Nat} {s t : State}
    (hs : P s) (h : runSteps n s = .next t) : P t := by
  induction n generalizing s with
  | zero => cases h; exact hs
  | succ n ih =>
    cases e : step s with
    | next u => exact ih (keeps s u hs e) (by simpa [runSteps, e] using h)
    | fault r => simp [runSteps, e] at h
    | refused r => simp [runSteps, e] at h

theorem runSteps_cfg {n : Nat} {s t : State} (h : runSteps n s = .next t) : t.cfg = s.cfg :=
  runSteps_keeps (P := fun u => u.cfg = s.cfg) (fun _ _ hu e => (step_cfg e).trans hu) rfl h

/-! ### The encoder's view of the state -/

/-- CapacityError looks at ENC_MAX_PAYLOAD alone. -/
theorem capacityExceeded_congr {c c' : Config} (h : c.encMaxPayload = c'.encMaxPayload) (P : Nat) :
    capacityExceeded c P = capacityExceeded c' P := by
  simp [capacityExceeded, h]

/-- The payload port shows the same bytes under two counters where every byte is served or the counters are the same (log 17). -/
theorem payData_congr {n n' : Nat} {p : PayloadPort} (h : p.plen.toNat ≤ p.served.length ∨ n = n') {k : Nat}
    (hk : k < p.plen.toNat) : payData n p k = payData n' p k := by
  rcases h with h | rfl
  · have hs : p.served[k]? = some p.served[k] := List.getElem?_eq_getElem (Nat.lt_of_lt_of_le hk h)
    rw [payData_of_served hs, payData_of_served hs]
  · rfl

theorem payBytes_congr {n n' : Nat} {p : PayloadPort} (h : p.plen.toNat ≤ p.served.length ∨ n = n') :
    payBytes n p = payBytes n' p :=
  List.map_congr_left fun _ hk => payData_congr h (List.mem_range.mp hk)

/-- The field multiplexer asks for payload bytes below P only (R122). -/
theorem encFieldByte_congr (c : FrameClass) (cmd : Word16) {P : Nat} {pay pay' : Nat → Byte}
    (h : ∀ k, k < P → pay k = pay' k) (j : Nat) :
    encFieldByte c cmd P pay (encSelect c P j) = encFieldByte c cmd P pay' (encSelect c P j) := by
  cases hf : encSelect c P j with
  | pay k =>
    refine h k ?_
    simp only [encSelect] at hf
    split_ifs at hf
    cases hf
    omega
  | hdr | lenB0 | lenB1 | cmdB0 | cmdB1 | ftr | none => rfl

/-- The encoder's ports look at the encoder's class, ENC_MAX_PAYLOAD and the payload bytes below P (R33). -/
theorem encPorts_congr {c c' : Config} (henc : c.enc = c'.enc) (hmax : c.encMaxPayload = c'.encMaxPayload)
    (cmd : Word16) {P : Nat} {pay pay' : Nat → Byte} (hpay : ∀ k, k < P → pay k = pay' k) (j : Index17) :
    encPorts c cmd P pay j = encPorts c' cmd P pay' j := by
  simp only [encPorts, capacityExceeded_congr hmax, ← henc, encFieldByte_congr c.enc cmd hpay]

/-- The whole effect of ENC but for the counter: its output by R120 and R121. -/
theorem execEnc_result (cmd : Word16) (p : PayloadPort) (s : State) :
    ∃ n, execEnc cmd p s = .next
      { s with
        freeCount := n
        result :=
          if capacityExceeded s.cfg p.plen.toNat then .frame [] 0 true
          else .frame (encFrame s.cfg.enc cmd (payBytes s.freeCount p))
            (BitVec.ofNat 17 (encLength s.cfg.enc p.plen.toNat)) false } := by
  unfold execEnc
  by_cases hc : capacityExceeded s.cfg p.plen.toNat = true
  · exact ⟨s.freeCount, by rw [if_pos hc, if_pos hc]; rfl⟩
  · exact ⟨_, by rw [if_neg hc, if_neg hc]; rfl⟩

/-! ### The invariant, phase by phase -/

/-- R31 read by the phase: what the registers are in each, and which cells the current frame has filled (R102). -/
def PhaseInv (s : State) : Prop :=
  match s.phase with
  | .header => s.sigIdx.toNat < s.cfg.dec.hdr.length ∧ s.len.toNat < s.cfg.cap ∧ s.wrPtr = 0
  | .len0 => s.sigIdx = 0 ∧ s.len.toNat < s.cfg.cap ∧ s.wrPtr = 0
  | .len1 => s.sigIdx = 0 ∧ s.wrPtr = 0
  | .payload =>
    s.sigIdx = 0 ∧ s.len.toNat < s.cfg.cap ∧ s.wrPtr.toNat < s.len.toNat ∧ s.buf.writtenBelow s.wrPtr.toNat
  | .footer =>
    s.sigIdx.toNat < s.cfg.dec.hdr.length ∧ s.len.toNat < s.cfg.cap ∧ s.wrPtr.toNat = s.len.toNat ∧
      s.buf.writtenBelow s.len.toNat
  | .illegal5 | .illegal6 | .illegal7 => False

section
variable {s : State}

theorem phaseInv_header (hp : s.phase = .header) :
    PhaseInv s ↔ s.sigIdx.toNat < s.cfg.dec.hdr.length ∧ s.len.toNat < s.cfg.cap ∧ s.wrPtr = 0 := by simp only [PhaseInv, hp]

theorem phaseInv_len0 (hp : s.phase = .len0) :
    PhaseInv s ↔ s.sigIdx = 0 ∧ s.len.toNat < s.cfg.cap ∧ s.wrPtr = 0 := by simp only [PhaseInv, hp]

theorem phaseInv_len1 (hp : s.phase = .len1) : PhaseInv s ↔ s.sigIdx = 0 ∧ s.wrPtr = 0 := by simp only [PhaseInv, hp]

theorem phaseInv_payload (hp : s.phase = .payload) :
    PhaseInv s ↔ s.sigIdx = 0 ∧ s.len.toNat < s.cfg.cap ∧ s.wrPtr.toNat < s.len.toNat ∧
      s.buf.writtenBelow s.wrPtr.toNat := by simp only [PhaseInv, hp]

theorem phaseInv_footer (hp : s.phase = .footer) :
    PhaseInv s ↔ s.sigIdx.toNat < s.cfg.dec.hdr.length ∧ s.len.toNat < s.cfg.cap ∧ s.wrPtr.toNat = s.len.toNat ∧
      s.buf.writtenBelow s.len.toNat := by simp only [PhaseInv, hp]

end

theorem GoodState.phaseInv {s : State} (h : GoodState s) : PhaseInv s := by
  cases hp : s.phase with
  | header =>
    exact (phaseInv_header hp).mpr ⟨h.sigRange, h.lenBound (by simp [hp]), h.ptrZero (by simp [hp])⟩
  | len0 =>
    exact (phaseInv_len0 hp).mpr
      ⟨h.sigZero (by simp [hp]) (by simp [hp]), h.lenBound (by simp [hp]), h.ptrZero (by simp [hp])⟩
  | len1 =>
    exact (phaseInv_len1 hp).mpr ⟨h.sigZero (by simp [hp]) (by simp [hp]), h.ptrZero (by simp [hp])⟩
  | payload =>
    exact (phaseInv_payload hp).mpr
      ⟨h.sigZero (by simp [hp]) (by simp [hp]), h.lenBound (by simp [hp]), h.ptrPayload hp, h.filled (.inl hp)⟩
  | footer =>
    exact (phaseInv_footer hp).mpr
      ⟨h.sigRange, h.lenBound (by simp [hp]), h.ptrFooter hp, h.ptrFooter hp ▸ h.filled (.inr hp)⟩
  | illegal5 | illegal6 | illegal7 => simpa [hp, Phase.legal] using h.phaseLegal

/-- The invariant from its parts: the configuration, the buffer's form, the registers by phase, and the two flags. -/
theorem GoodState.of_phaseInv {s : State} (cfgWf : s.cfg.wf = true) (inv : PhaseInv s) (bufWf : s.buf.wf)
    (bufRange : ∀ c ∈ s.buf, c.1 < s.cfg.cap)
    (ready : s.frameReady = true → s.phase = .header ∧ s.sigIdx = 0 ∧ s.buf.writtenBelow s.len.toNat)
    (done : s.frameDone = true → s.frameReady = true) : GoodState s := by
  have hH : 0 < s.cfg.dec.hdr.length :=
    Nat.zero_lt_of_lt (s.cfg.dec.wf_iff.mp (s.cfg.wf_iff.mp cfgWf).1).1
  have regs : s.phase.legal = true ∧ s.sigIdx.toNat < s.cfg.dec.hdr.length ∧
      (s.phase ≠ .header → s.phase ≠ .footer → s.sigIdx = 0) ∧ (s.phase ≠ .len1 → s.len.toNat < s.cfg.cap) ∧
      (s.phase = .header ∨ s.phase = .len0 ∨ s.phase = .len1 → s.wrPtr = 0) ∧
      (s.phase = .payload → s.wrPtr.toNat < s.len.toNat) ∧ (s.phase = .footer → s.wrPtr.toNat = s.len.toNat) ∧
      (s.phase = .payload ∨ s.phase = .footer → s.buf.writtenBelow s.wrPtr.toNat) := by
    cases hp : s.phase with
    | header =>
      obtain ⟨hsig, hlen, hptr⟩ := (phaseInv_header hp).mp inv
      simp [Phase.legal, hsig, hlen, hptr]
    | len0 =>
      obtain ⟨hsig, hlen, hptr⟩ := (phaseInv_len0 hp).mp inv
      simp [Phase.legal, hsig, hlen, hptr, hH]
    | len1 =>
      obtain ⟨hsig, hptr⟩ := (phaseInv_len1 hp).mp inv
      simp [Phase.legal, hsig, hptr, hH]
    | payload =>
      obtain ⟨hsig, hlen, hptr, hw⟩ := (phaseInv_payload hp).mp inv
      simp [Phase.legal, hsig, hlen, hptr, hw, hH]
    | footer =>
      obtain ⟨hsig, hlen, hptr, hw⟩ := (phaseInv_footer hp).mp inv
      simp [Phase.legal, hsig, hlen, hptr, hw]
    | illegal5 | illegal6 | illegal7 => simp [PhaseInv, hp] at inv
  obtain ⟨hl, hsr, hsz, hlb, hpz, hpp, hpf, hf⟩ := regs
  exact
    { cfgWf, bufWf, bufRange, phaseLegal := hl, sigRange := hsr, sigZero := hsz, lenBound := hlb, ptrZero := hpz
      ptrPayload := hpp, ptrFooter := hpf, filled := hf
      readyPhase := fun h => ⟨(ready h).1, (ready h).2.1⟩, readyFilled := fun h => (ready h).2.2, doneReady := done }

/-- The registers as `Reset()` leaves them are in range (R34, R86). -/
theorem PhaseInv.of_reset {s : State} (cfgWf : s.cfg.wf = true) (phase : s.phase = .header) (sigIdx : s.sigIdx = 0)
    (len : s.len = 0) (wrPtr : s.wrPtr = 0) : PhaseInv s := by
  obtain ⟨hd, -, hcap, -⟩ := s.cfg.wf_iff.mp cfgWf
  obtain ⟨hH, -⟩ := s.cfg.dec.wf_iff.mp hd
  refine (phaseInv_header phase).mpr ⟨?_, ?_, wrPtr⟩
  · rw [sigIdx]
    exact Nat.zero_lt_of_lt hH
  · rw [len]
    exact Nat.zero_lt_of_lt hcap

/-- A state as `Reset()` leaves it, of a well-formed configuration and with a buffer inside CAP (R34, R86). -/
theorem GoodState.of_reset {s : State} (cfgWf : s.cfg.wf = true) (bufWf : s.buf.wf)
    (bufRange : ∀ c ∈ s.buf, c.1 < s.cfg.cap) (phase : s.phase = .header) (sigIdx : s.sigIdx = 0) (len : s.len = 0)
    (wrPtr : s.wrPtr = 0) (ready : s.frameReady = false) (done : s.frameDone = false) : GoodState s :=
  .of_phaseInv cfgWf (.of_reset cfgWf phase sigIdx len wrPtr) bufWf bufRange (by simp [ready]) (by simp [done])

theorem Memory.writtenBelow_zero (m : Memory) : m.writtenBelow 0 := fun _ hi => absurd hi (Nat.not_lt_zero _)

/-- The cells below `wr_ptr` and then the one at it (R93). -/
theorem Memory.writtenBelow_write {m : Memory} {n : Nat} (h : m.writtenBelow n) (b : Byte) :
    (m.write n b).writtenBelow (n + 1) := by
  intro i hi
  by_cases he : i = n
  · subst he
    simp
  · rw [Memory.read_write_other m b he]
    exact h i (by omega)

theorem byteNext_bufWf {s : State} (h : s.buf.wf) (d : Byte) : (byteNext d s).buf.wf := by
  rw [byteNext_buf]
  split
  · exact Memory.write_wf h _ _
  · exact h

/-- R93 stores below `len`, which its guard holds below CAP. -/
theorem byteNext_bufRange {s : State} (h : ∀ c ∈ s.buf, c.1 < s.cfg.cap) (d : Byte) :
    ∀ c ∈ (byteNext d s).buf, c.1 < s.cfg.cap := by
  rw [byteNext_buf]
  split
  case isTrue hr =>
    obtain ⟨-, hlt, hcap⟩ := (byteRule_eq_payloadByte_iff d s).mp hr
    exact Memory.write_range h (Nat.lt_trans hlt hcap) d
  case isFalse => exact h

/-- The rules that call `Reset()` leave its registers. -/
theorem GoodState.phaseInv_resync {s : State} (h : GoodState s) {d : Byte}
    (r : byteRule d s = .lengthRejected ∨ byteRule d s = .payloadViolation ∨ byteRule d s = .footerMismatch ∨
      byteRule d s = .illegalPhase) : PhaseInv (byteNext d s) := by
  rw [byteNext_resync r]
  exact .of_reset h.cfgWf rfl rfl rfl rfl

/-- BYTE keeps the registers in the range of R31, rule by rule (R88 to R98). -/
theorem GoodState.phaseInv_byteNext {s : State} (h : GoodState s) (d : Byte) : PhaseInv (byteNext d s) := by
  have inv := h.phaseInv
  obtain ⟨hH2, hH4, hF, -, hcap⟩ := h.bounds
  rcases byteRule_cases d s with ⟨r, hp, -⟩ | ⟨r, hp, -⟩ | ⟨r, hp⟩ | ⟨r, -⟩ | ⟨r, hp, hL⟩ | ⟨r, hp, hlt, hlen⟩ | ⟨r, -⟩ |
    ⟨r, hp, -, hi⟩ | ⟨r, hp, -⟩ | ⟨r, -⟩ | ⟨r, -⟩
  -- R88: the next header index, or LEN0 after the last.
  · obtain ⟨hsig, hlen, hptr⟩ := (phaseInv_header hp).mp inv
    rw [byteNext_headerMatch r]
    by_cases hl : s.sigIdx.toNat + 1 = s.cfg.dec.hdr.length
    · rw [if_pos hl, if_pos hl]
      exact (phaseInv_len0 rfl).mpr ⟨rfl, hlen, hptr⟩
    · rw [if_neg hl, if_neg hl]
      have hnext : (s.sigIdx + 1).toNat < s.cfg.dec.hdr.length := by bv_omega
      exact (phaseInv_header (by exact hp)).mpr ⟨hnext, hlen, hptr⟩
  -- R89: index 0 or 1, and H is at least 2.
  · obtain ⟨-, hlen, hptr⟩ := (phaseInv_header hp).mp inv
    rw [byteNext_headerMismatch r]
    refine (phaseInv_header (by exact hp)).mpr ⟨?_, hlen, hptr⟩
    dsimp only
    split
    · exact hH2
    · exact Nat.zero_lt_of_lt hH2
  -- R90: LEN1 leaves `len` unbounded.
  · obtain ⟨hsig, -, hptr⟩ := (phaseInv_len0 hp).mp inv
    rw [byteNext_firstLength r]
    exact (phaseInv_len1 rfl).mpr ⟨hsig, hptr⟩
  -- R91.
  · exact h.phaseInv_resync (.inl r)
  -- R92: an empty payload is already filled.
  · rw [byteNext_lengthAccepted r]
    by_cases h0 : lenSecond s.cfg.dec.order s.len d = 0
    · rw [if_pos h0, h0]
      rw [h0] at hL
      exact (phaseInv_footer rfl).mpr ⟨Nat.zero_lt_of_lt hH2, hL, rfl, Memory.writtenBelow_zero _⟩
    · rw [if_neg h0]
      have hpos : 0 < (lenSecond s.cfg.dec.order s.len d).toNat := by bv_omega
      exact (phaseInv_payload rfl).mpr ⟨rfl, hL, hpos, Memory.writtenBelow_zero _⟩
  -- R93: one more cell is written, and `wr_ptr + 1 ≤ len < 64` does not wrap.
  · obtain ⟨hsig, -, -, hw⟩ := (phaseInv_payload hp).mp inv
    have hnext : (s.wrPtr + 1).toNat = s.wrPtr.toNat + 1 := by bv_omega
    have hw' := Memory.writtenBelow_write hw d
    rw [byteNext_payloadByte r]
    by_cases hl : s.wrPtr.toNat + 1 = s.len.toNat
    · rw [if_pos hl, if_pos hl]
      exact (phaseInv_footer rfl).mpr ⟨Nat.zero_lt_of_lt hH2, hlen, hnext.trans hl, hl ▸ hw'⟩
    · rw [if_neg hl, if_neg hl]
      exact (phaseInv_payload (by exact hp)).mpr ⟨hsig, hlen, by dsimp only; omega, hnext ▸ hw'⟩
  -- R94.
  · exact h.phaseInv_resync (.inr (.inl r))
  -- R95: the next footer index, and F = H.
  · obtain ⟨-, hlen, hptr, hw⟩ := (phaseInv_footer hp).mp inv
    rw [byteNext_footerMatch r]
    have hnext : (s.sigIdx + 1).toNat < s.cfg.dec.hdr.length := by bv_omega
    exact (phaseInv_footer (by exact hp)).mpr ⟨hnext, hlen, hptr, hw⟩
  -- R96: `len` is kept.
  · obtain ⟨-, hlen, -⟩ := (phaseInv_footer hp).mp inv
    rw [byteNext_frameComplete r]
    exact (phaseInv_header rfl).mpr ⟨Nat.zero_lt_of_lt hH2, hlen, rfl⟩
  -- R97 and R98.
  · exact h.phaseInv_resync (.inr (.inr (.inl r)))
  · exact h.phaseInv_resync (.inr (.inr (.inr r)))

/-- BYTE keeps the invariant: what R96 sets `frame_ready` for is the frame whose cells FOOTER holds written. -/
theorem GoodState.of_byteNext {s : State} (h : GoodState s) (d : Byte) : GoodState (byteNext d s) := by
  refine .of_phaseInv (by rw [byteNext_cfg]; exact h.cfgWf) (h.phaseInv_byteNext d) (byteNext_bufWf h.bufWf d)
    (by rw [byteNext_cfg]; exact byteNext_bufRange h.bufRange d) (fun hr => ?_) (by simp)
  have r : byteRule d s = .frameComplete := by simpa using hr
  obtain ⟨hp, -⟩ := (byteRule_eq_frameComplete_iff d s).mp r
  obtain ⟨-, -, -, hw⟩ := (phaseInv_footer hp).mp h.phaseInv
  rw [byteNext_frameComplete r]
  exact ⟨rfl, rfl, hw⟩

/-- Every operation keeps the invariant. -/
theorem GoodState.of_exec {i : Instr} {s t : State} (h : GoodState s) (e : exec i s = .next t) : GoodState t := by
  cases i with
  | por =>
    cases e
    exact .of_reset h.cfgWf List.Pairwise.nil (by simp) rfl rfl rfl rfl rfl rfl
  | reset =>
    cases e
    exact .of_reset h.cfgWf h.bufWf h.bufRange rfl rfl rfl rfl rfl rfl
  | byte d =>
    cases e
    exact h.of_byteNext d
  | idle =>
    cases e
    exact h.of_same rfl rfl rfl rfl rfl rfl rfl (by simp)
  | take | enc | encb =>
    obtain ⟨_, _, rfl⟩ := exec_next_of_unclocked (by exact trivial) e
    exact h.of_same rfl rfl rfl rfl rfl rfl rfl id

/-- Every step keeps the invariant. -/
theorem GoodState.of_step {s t : State} (h : GoodState s) (e : step s = .next t) : GoodState t := by
  obtain ⟨i, hi⟩ := step_next e
  have hs : GoodState { s with input := s.input.tail } := h.of_same rfl rfl rfl rfl rfl rfl rfl id
  exact hs.of_exec hi

/-- The block right after POR, whatever the host goes on to present (R34). -/
theorem GoodState.of_resetWith {c : Config} (hc : c.wf = true) (ops : List Input) :
    GoodState { State.resetWith c with input := ops } :=
  .of_reset hc List.Pairwise.nil (by simp) rfl rfl rfl rfl rfl rfl

/-- `wr_ptr` never passes `len` (R31). -/
theorem PhaseInv.wrPtr_le_len {s : State} (h : PhaseInv s) : s.wrPtr.toNat ≤ s.len.toNat := by
  cases hp : s.phase with
  | header =>
    obtain ⟨-, -, h0⟩ := (phaseInv_header hp).mp h
    simp [h0]
  | len0 =>
    obtain ⟨-, -, h0⟩ := (phaseInv_len0 hp).mp h
    simp [h0]
  | len1 =>
    obtain ⟨-, h0⟩ := (phaseInv_len1 hp).mp h
    simp [h0]
  | payload =>
    obtain ⟨-, -, hlt, -⟩ := (phaseInv_payload hp).mp h
    exact Nat.le_of_lt hlt
  | footer =>
    obtain ⟨-, -, he, -⟩ := (phaseInv_footer hp).mp h
    exact Nat.le_of_eq he
  | illegal5 | illegal6 | illegal7 => simp [PhaseInv, hp] at h

/-- The legal phases are the codes 0 to 4 (R21). -/
theorem Phase.code_le_of_legal {p : Phase} (h : p.legal = true) : p.code.toNat ≤ 4 := by
  cases p with
  | header | len0 | len1 | payload | footer => decide
  | illegal5 | illegal6 | illegal7 => cases h

end Sys2Proof.Machine

open Sys2Proof Sys2Proof.Machine

/-- Settles O46: the invariant is kept operation by operation, and a step is one of them. -/
theorem everyStepKeepsTheInvariant : Obligations.EveryStepKeepsTheInvariant := fun _ _ => GoodState.of_step

/-- Settles O26: what BYTE writes, and which rule stores. -/
theorem byteFrame : Obligations.ByteFrame := by
  intro s t d h
  cases h
  refine ⟨byteNext_cfg d s, byteNext_input d s, byteNext_freeCount d s, fun hr a ha => ?_, fun hr a => ?_,
    byteRule_eq_payloadByte_iff d s⟩
  · rw [byteNext_buf, if_pos hr, Memory.read_write_other _ d ha]
  · rw [byteNext_buf, if_neg hr]

/-- Settles O47: the invariant holds after POR and along the run, whose configuration stays `c`. -/
theorem reachableStatesAreInRange : Obligations.ReachableStatesAreInRange := by
  intro c ops n t hc h
  have good : GoodState t := runSteps_keeps (fun _ _ => GoodState.of_step) (.of_resetWith hc ops) h
  have cfg : t.cfg = c := runSteps_cfg h
  subst cfg
  exact ⟨Phase.code_le_of_legal good.phaseLegal, good.sigRange, good.sigZero, good.lenBound, good.ptrZero, good.ptrPayload,
    good.ptrFooter, good.phaseInv.wrPtr_le_len⟩

/-- Settles O50, by induction on the number of steps. -/
theorem configurationNeverChanges : Obligations.ConfigurationNeverChanges := fun _ _ _ => runSteps_cfg

/-- Settles O10: `Reset()` and POR write these values, and so does the machine's construction. -/
theorem resetValues : Obligations.ResetValues :=
  ⟨fun s => ⟨_, exec_por s, rfl, rfl, rfl, rfl, rfl, rfl, Memory.read_nil, rfl⟩,
    fun s => ⟨_, exec_reset s, rfl, rfl, rfl, rfl, rfl, rfl, fun _ => rfl, rfl⟩,
    rfl, rfl, rfl, rfl, rfl, rfl, Memory.read_nil⟩

/-- Settles O30: BYTE sets the flag by the completing rule alone, the resets clear it, and the rest do not write it. -/
theorem frameReadyRule : Obligations.FrameReadyRule := by
  intro i s t h
  cases i with
  | por | reset | idle => cases h; rfl
  | byte d =>
    cases h
    simp [byteRule_eq_frameComplete_iff]
  | take | enc | encb =>
    obtain ⟨_, _, rfl⟩ := exec_next_of_unclocked (by exact trivial) h
    rfl

/-- Settles O31: a clocked operation writes its `done`, and the others do not write the flag. -/
theorem frameDoneRule : Obligations.FrameDoneRule := by
  intro i s t h
  cases i with
  | por | reset | idle => cases h; exact ⟨rfl, rfl⟩
  | byte d =>
    cases h
    simp
  | take | enc | encb =>
    obtain ⟨_, _, rfl⟩ := exec_next_of_unclocked (by exact trivial) h
    rfl

/-- Settles O43: every part of the encoder's output is a function of its inputs, its class and ENC_MAX_PAYLOAD. -/
theorem encoderSeesOnlyItsInputs : Obligations.EncoderSeesOnlyItsInputs := by
  intro s s' cmd p henc hmax hpay
  have hc := capacityExceeded_congr hmax p.plen.toNat
  constructor
  · obtain ⟨n, e⟩ := execEnc_result cmd p s
    obtain ⟨n', e'⟩ := execEnc_result cmd p s'
    rw [← hc, ← henc, ← payBytes_congr hpay] at e'
    exact ⟨_, n, n', e, e'⟩
  · intro j
    have hports := encPorts_congr henc hmax cmd (fun _ => payData_congr hpay) j
    have c := execEncb_cases cmd p j s
    have c' := execEncb_cases cmd p j s'
    rw [← hc, ← henc, ← hports] at c'
    rcases c with ⟨hr, hj, e⟩ | ⟨hn, v, e, -⟩
    · rcases c' with ⟨-, -, e'⟩ | ⟨hn, -⟩
      · exact .inr ⟨e, e'⟩
      · simp [hr, Nat.not_lt_of_le hj] at hn
    · rcases c' with ⟨hr, hj, -⟩ | ⟨-, v', e', -⟩
      · simp [hr, Nat.not_lt_of_le hj] at hn
      · exact .inl ⟨_, _, _, e, e'⟩

/-- Settles O45: the registers are as `Reset()` leaves them and no cell is written. -/
theorem invariantAtReset : Obligations.InvariantAtReset :=
  ⟨fun _ hc => .of_resetWith hc [], .of_resetWith (by decide) []⟩
end

section
/-! PROOFS. The receive buffer's read port (spec/20_memory.md R45): its value below and from CAP on, and that a read can be
repeated. -/

namespace Sys2Proof.Machine

/-- Below CAP the port shows the cell (R45). -/
theorem State.rdData_of_lt_cap {s : State} {a : Addr} (h : a.toNat < s.cfg.cap) : s.rdData a = s.buf.read a.toNat :=
  if_pos h

/-- From CAP on the port shows 0x00 (R45). -/
theorem State.rdData_of_cap_le {s : State} {a : Addr} (h : s.cfg.cap ≤ a.toNat) : s.rdData a = some 0x00 :=
  if_neg (Nat.not_lt_of_le h)

/-- TAKE does not look at the output of an earlier step, and a completing one overwrites it (R45, R101). -/
@[simp] theorem execTake_answer (form : ReadForm) (s : State) (r : Result) :
    execTake form (s.answer r) = execTake form s := by
  cases form with
  | whole => rfl
  | port a => rfl

/-- A read can be repeated: after a TAKE that completes, the same TAKE ends in the same state (R45). -/
theorem execTake_repeat {form : ReadForm} {s t : State} (h : execTake form s = .next t) : execTake form t = .next t := by
  obtain ⟨r, rfl⟩ := execTake_next h
  rw [execTake_answer, h]

end Sys2Proof.Machine

open Sys2Proof Sys2Proof.Machine

/-- Settles O36: the port's two values, and a read that writes the step's output alone and can be repeated. -/
theorem readPortValue : Obligations.ReadPortValue := by
  refine ⟨fun _ _ => ⟨State.rdData_of_lt_cap, State.rdData_of_cap_le⟩, fun _ _ _ h => ⟨?_, execTake_repeat h⟩⟩
  obtain ⟨r, rfl⟩ := execTake_next h
  rfl
end

section
/-! PROOFS. The encoding (spec/30_encoding.md R66 to R72): the rows of the DIW table bit by bit, the two directions of the round
trip, and a run over presented bytes. -/

namespace Sys2Proof

/-! ### The rows of R67 -/

theorem Diw.eq_iff_bits (w v : Diw) : w = v ↔ ∀ i : Fin 11, w[i] = v[i] := by
  simp only [BitVec.eq_of_getElem_eq_iff, Fin.forall_iff]
  rfl

/-- A row's match and mask, bit by bit. -/
theorem Diw.and_eq_iff (w m v : Diw) : w &&& m = v ↔ ∀ i : Fin 11, (w[i] && m[i]) = v[i] := by
  simp [Diw.eq_iff_bits]

theorem Diw.por_row_iff (w : Diw) : w &&& 0x400 = 0x400 ↔ w[10] = true := by
  simp [Diw.and_eq_iff, Fin.forall_fin_succ]

theorem Diw.reset_row_iff (w : Diw) : w &&& 0x600 = 0x200 ↔ w[9] = true ∧ w[10] = false := by
  simp [Diw.and_eq_iff, Fin.forall_fin_succ]

theorem Diw.byte_row_iff (w : Diw) : w &&& 0x700 = 0x100 ↔ w[8] = true ∧ w[9] = false ∧ w[10] = false := by
  simp [Diw.and_eq_iff, Fin.forall_fin_succ]

theorem Diw.idle_row_iff (w : Diw) : w &&& 0x700 = 0x000 ↔ w[8] = false ∧ w[9] = false ∧ w[10] = false := by
  simp [Diw.and_eq_iff, Fin.forall_fin_succ]

/-- `rst`, `soft_reset` and `in_valid` decide the row, so every word is in one (R67). -/
theorem Diw.row_cases (w : Diw) :
    w &&& 0x400 = 0x400 ∨ w &&& 0x600 = 0x200 ∨ w &&& 0x700 = 0x100 ∨ w &&& 0x700 = 0x000 := by
  rw [Diw.por_row_iff, Diw.reset_row_iff, Diw.byte_row_iff, Diw.idle_row_iff]
  cases w[10] with
  | true => simp
  | false =>
    cases w[9] with
    | true => simp
    | false => cases w[8] <;> simp

section
variable {w : Diw}

theorem decodeDiw_por (h : w &&& 0x400 = 0x400) : decodeDiw w = .por := by
  have h10 := w.por_row_iff.mp h
  simp [decodeDiw, h10]

theorem decodeDiw_reset (h : w &&& 0x600 = 0x200) : decodeDiw w = .reset := by
  obtain ⟨h9, h10⟩ := w.reset_row_iff.mp h
  simp [decodeDiw, h10, h9]

theorem decodeDiw_byte (h : w &&& 0x700 = 0x100) : decodeDiw w = .byte (w.extractLsb' 0 8) := by
  obtain ⟨h8, h9, h10⟩ := w.byte_row_iff.mp h
  simp [decodeDiw, h10, h9, h8]

theorem decodeDiw_idle (h : w &&& 0x700 = 0x000) : decodeDiw w = .idle := by
  obtain ⟨h8, h9, h10⟩ := w.idle_row_iff.mp h
  simp [decodeDiw, h10, h9, h8]

/-- The row of BYTE is the only one that gives BYTE. -/
theorem decodeDiw_eq_byte_iff {d : Byte} : decodeDiw w = .byte d ↔ w &&& 0x700 = 0x100 ∧ w.extractLsb' 0 8 = d := by
  constructor
  · intro h
    rcases w.row_cases with r | r | r | r
    · cases (decodeDiw_por r).symm.trans h
    · cases (decodeDiw_reset r).symm.trans h
    · cases (decodeDiw_byte r).symm.trans h
      exact ⟨r, rfl⟩
    · cases (decodeDiw_idle r).symm.trans h
  · rintro ⟨r, rfl⟩
    exact decodeDiw_byte r

end

/-- A word is its three control bits and its data byte. -/
theorem Diw.control_or_data (w : Diw) : (w &&& 0x700) ||| (w.extractLsb' 0 8).zeroExtend 11 = w := by
  simp [Diw.eq_iff_bits, Fin.forall_fin_succ]

/-! ### The round trip -/

/-- Decoding reads back the presentation of every instruction: on DIW by its row, elsewhere by the port's name. -/
theorem decode_encode (i : Instr) : decode (encode i) = .ok i := by
  cases i with
  | por => exact congrArg Except.ok (decodeDiw_por (by decide))
  | reset => exact congrArg Except.ok (decodeDiw_reset (by decide))
  | byte d =>
    obtain ⟨w, hw, row, data⟩ := Laws.TableMatch.byte d
    rw [hw]
    exact congrArg Except.ok (decodeDiw_eq_byte_iff.mpr ⟨row, data⟩)
  | idle => exact congrArg Except.ok (decodeDiw_idle (by decide))
  | take form => cases form <;> rfl
  | enc cmd p => rfl
  | encb cmd p j => rfl

/-- The one encoding of BYTE: a word that selects it is its presentation. -/
theorem encode_of_decodeDiw_byte {w : Diw} {d : Byte} (h : decodeDiw w = .byte d) : encode (.byte d) = .diw w := by
  obtain ⟨row, rfl⟩ := decodeDiw_eq_byte_iff.mp h
  exact congrArg Input.diw (row ▸ w.control_or_data)

/-- Off the DIW port every operation has one presentation (R68, R69). -/
theorem encode_of_decode {x : Input} {i : Instr} (hx : ∀ w, x ≠ .diw w) (h : decode x = .ok i) : encode i = x := by
  cases x with
  | diw w => exact absurd rfl (hx w)
  | unmapped w => cases h
  | readAll | readPort | encFrame | encByte => cases h; rfl

/-- A numeral that fits the port's eleven bits is the DIW word (R66). -/
theorem inputOfWord_of_lt {nbits w : Nat} (hn : 11 ≤ nbits) (hw : w < 2 ^ 11) :
    inputOfWord nbits w = .diw (BitVec.ofNat 11 w) := by
  have hmod : w % 2 ^ nbits = w := Nat.mod_eq_of_lt (Nat.lt_of_lt_of_le hw (Nat.pow_le_pow_right (by decide) hn))
  rw [inputOfWord, hmod, if_pos hw]

end Sys2Proof

namespace Sys2Proof.Machine

/-! ### The length field (R13, R63, R90, R91) -/

/-- Two bytes joined are the number they write in base 256. -/
theorem toNat_zext16_or_shift (lo hi : Byte) : (zext16 lo ||| zext16 hi <<< 8).toNat = lo.toNat + 256 * hi.toNat := by
  have hor := Nat.two_pow_add_eq_or_of_lt lo.isLt hi.toNat
  have hlo : (zext16 lo).toNat = lo.toNat := BitVec.toNat_setWidth_of_le (by decide)
  have hhi : (zext16 hi <<< 8).toNat = 2 ^ 8 * hi.toNat := by
    simp [zext16, Nat.shiftLeft_eq]
    omega
  rw [BitVec.toNat_or, hlo, hhi, Nat.or_comm, ← hor, Nat.add_comm]

theorem toNat_lenSecond_le (b0 b1 : Byte) :
    (lenSecond .le (lenFirst .le b0) b1).toNat = b0.toNat + 256 * b1.toNat := toNat_zext16_or_shift b0 b1

theorem toNat_lenSecond_be (b0 b1 : Byte) :
    (lenSecond .be (lenFirst .be b0) b1).toNat = 256 * b0.toNat + b1.toNat := by
  rw [Nat.add_comm, ← toNat_zext16_or_shift b1 b0, BitVec.or_comm]
  rfl

theorem toNat_lowByte_add_highByte (v : Word16) : (lowByte v).toNat + 256 * (highByte v).toNat = v.toNat := by
  simp [lowByte, highByte]
  omega

/-- What `ser16` writes is two bytes that assemble back to the value (R13, R63). -/
theorem ser16_assembles (o : ByteOrder) (v : Word16) :
    ∃ b0 b1, ser16 o v = [b0, b1] ∧ lenSecond o (lenFirst o b0) b1 = v := by
  cases o with
  | le =>
    refine ⟨lowByte v, highByte v, rfl, BitVec.eq_of_toNat_eq ?_⟩
    rw [toNat_lenSecond_le, toNat_lowByte_add_highByte]
  | be =>
    refine ⟨highByte v, lowByte v, rfl, BitVec.eq_of_toNat_eq ?_⟩
    rw [toNat_lenSecond_be, Nat.add_comm, toNat_lowByte_add_highByte]

/-! ### A run over presented bytes (R72) -/

/-- One step over a presented BYTE. -/
theorem step_of_input_byte {s : State} {b : Byte} {rest : List Input} (hc : s.cfg.wf = true)
    (hx : s.input = encode (.byte b) :: rest) : step s = .next { byteNext b s with input := rest } := by
  have hf := s.fetch_cons _ rest hx
  rw [step_of_decode hc (by rw [hf]; exact decode_encode (.byte b)), hf, exec_byte, byteNext_withInput]

/-- The run consumes the presented bytes and leaves what stands behind them. -/
theorem runSteps_of_bytes (bs : List Byte) {s : State} {rest : List Input} (hc : s.cfg.wf = true)
    (hx : s.input = (bs.map fun b => encode (.byte b)) ++ rest) :
    ∃ t ds, feed bs { s with input := rest } = .next (t, ds) ∧ runSteps bs.length s = .next t ∧ ds.length = bs.length := by
  induction bs generalizing s with
  | nil =>
    have hs : { s with input := rest } = s := by rw [show rest = s.input from hx.symm]
    exact ⟨s, [], by rw [hs, feed_nil], rfl, rfl⟩
  | cons b bs ih =>
    have hstep := step_of_input_byte hc hx
    have hc' : (byteNext b s).cfg.wf = true := by rw [byteNext_cfg, hc]
    obtain ⟨t, ds, hfeed, hrun, hlen⟩ :=
      ih (s := { byteNext b s with input := (bs.map fun b => encode (.byte b)) ++ rest }) hc' rfl
    refine ⟨t, _, feed_cons b bs _ (by rw [byteNext_withInput]; exact hfeed), ?_, congrArg Nat.succ hlen⟩
    rw [List.length_cons, runSteps, hstep]
    exact hrun

end Sys2Proof.Machine

open Sys2Proof Sys2Proof.Machine

/-- Settles O7, instruction by instruction. -/
theorem decodeOfEncodeIsTheInstruction : Obligations.DecodeOfEncodeIsTheInstruction :=
  fun i => ⟨i.wf_eq_true, decode_encode i⟩

/-- Settles O8: off the DIW port the presentation is unique, and on it BYTE's word is. -/
theorem encodeOfDecodeIsThePresentation : Obligations.EncodeOfDecodeIsThePresentation := by
  intro x i h
  refine ⟨i.wf_eq_true, fun hx => encode_of_decode hx h, ?_⟩
  rintro d rfl
  cases x with
  | diw w => exact encode_of_decodeDiw_byte (Except.ok.inj h)
  | readAll | readPort | encFrame | encByte | unmapped => cases h

/-- Settles O44: both orders join the two bytes in base 256, as `ser16` split them. -/
theorem lengthFieldAssembly : Obligations.LengthFieldAssembly :=
  ⟨fun b0 b1 => ⟨toNat_lenSecond_le b0 b1, toNat_lenSecond_be b0 b1⟩, ser16_assembles⟩

/-- Settles O51, by induction on the presented bytes. -/
theorem runOverBytesIsFeed : Obligations.RunOverBytesIsFeed := fun bs _ _ => runSteps_of_bytes bs

/-- Settles O2: the word driven with nothing presented is IDLE's. -/
theorem stepIdlesWhenNothingPresented : Obligations.StepIdlesWhenNothingPresented := by
  intro s hc hx
  have hf := s.fetch_nil hx
  rw [step_of_decode hc (by rw [hf]; exact decode_encode .idle), hf]

/-- Settles O3: below 2^11 the numeral is the DIW word, and the step takes it from the list. -/
theorem fetchedWordRuns : Obligations.FetchedWordRuns := by
  intro s w hc hw
  have hin : inputOfWord 16 w = .diw (BitVec.ofNat 11 w) := inputOfWord_of_lt (by decide) hw
  constructor
  · rw [decodeTableWord, hin]
    rfl
  · have hf := (s.withFetchWord 16 w).fetch_cons _ _ (s.withFetchWord_input 16 w)
    have hd : decode (s.withFetchWord 16 w).fetch.1 = .ok (decodeDiw (BitVec.ofNat 11 w)) := by
      rw [hf, hin]
      rfl
    rw [step_of_decode (by exact hc) hd, hf]
    rfl

/-- Settles O5: the rows by their bits. -/
theorem diwWordSelectsOneOperation : Obligations.DiwWordSelectsOneOperation := by
  refine ⟨fun w => ⟨fun h => ?_, fun h => ?_, fun h => ?_, fun h => ?_, w.row_cases⟩, rfl, rfl, rfl, fun _ => rfl⟩
  · rw [decode, decodeDiw_por h]
  · rw [decode, decodeDiw_reset h]
  · rw [decode, decodeDiw_byte h, ← BitVec.setWidth_eq_extractLsb' (by decide)]
  · rw [decode, decodeDiw_idle h]

/-- Settles O6: closed words, evaluated. -/
theorem writtenWordsDecode : Obligations.WrittenWordsDecode := by
  unfold Obligations.WrittenWordsDecode
  decide
end

section
/-! PROOFS. FEED of a frame's wire form (spec/40_decoder.md R88 to R96, R102): header, length field, payload and footer in turn,
each from whatever state the part before it leaves. -/

namespace Sys2Proof.Machine

/-! ### Bytes fed one after another -/

/-- FEED never stops (R72, R107). -/
theorem feed_next (bs : List Byte) (s : State) : ∃ t ds, feed bs s = .next (t, ds) := by
  induction bs generalizing s with
  | nil => exact ⟨s, [], feed_nil s⟩
  | cons b bs ih =>
    obtain ⟨t, ds, h⟩ := ih (byteNext b s)
    exact ⟨t, _, feed_cons b bs s h⟩

/-- FEED of two lists is FEED of the first, then of the second. -/
theorem feed_append {xs ys : List Byte} {s t u : State} {ds es : List Bool} (hx : feed xs s = .next (t, ds))
    (hy : feed ys t = .next (u, es)) : feed (xs ++ ys) s = .next (u, ds ++ es) := by
  induction xs generalizing s ds with
  | nil => cases hx; exact hy
  | cons b xs ih =>
    obtain ⟨t', ds', h⟩ := feed_next xs (byteNext b s)
    cases (feed_cons b xs s h).symm.trans hx
    exact feed_cons b _ s (ih h)

/-- A byte that completes no frame, then bytes that complete none. -/
theorem feed_cons_replicate {b : Byte} {bs : List Byte} {s u : State} (hb : byteRule b s ≠ .frameComplete)
    (h : feed bs (byteNext b s) = .next (u, List.replicate bs.length false)) :
    feed (b :: bs) s = .next (u, List.replicate (bs.length + 1) false) := by
  rw [feed_cons b bs s h, byteNext_frameDone, decide_eq_false hb]
  rfl

/-- Where a signature stands at index `i` with `b :: rest` to come. -/
theorem signature_of_drop_eq_cons {sig rest : List Byte} {b : Byte} {i : Nat} (h : sig.drop i = b :: rest) :
    sig[i]? = some b ∧ sig.drop (i + 1) = rest ∧ sig.length = i + 1 + rest.length := by
  have hlen : sig.length - i = rest.length + 1 := by rw [← List.length_drop, h, List.length_cons]
  refine ⟨?_, ?_, by omega⟩
  · rw [← Nat.add_zero i, ← List.getElem?_drop, h, List.getElem?_cons_zero]
  · rw [← List.drop_drop, h, List.drop_one, List.tail_cons]

/-! ### The header (R88, R89, R106) -/

/-- The rest of the header from `sig_idx` on leads to LEN0 (R88). -/
theorem feed_hdr_rest {s : State} {rest : List Byte} (hc : s.cfg.dec.wf = true) (hp : s.phase = .header)
    (hr : s.cfg.dec.hdr.drop s.sigIdx.toNat = rest) (hne : rest ≠ []) :
    feed rest s = .next
      ({ s with phase := .len0, sigIdx := 0, frameReady := false, frameDone := false, result := .done false },
        List.replicate rest.length false) := by
  induction rest generalizing s with
  | nil => exact absurd rfl hne
  | cons b rest ih =>
    obtain ⟨hb, hrest, hlen⟩ := signature_of_drop_eq_cons hr
    have r : byteRule b s = .headerMatch := by simp [byteRule, hp, headerByte_of_getElem? hb]
    have e := byteNext_headerMatch r
    refine feed_cons_replicate (by simp [r]) ?_
    by_cases hn : rest = []
    · subst hn
      have hlast : s.sigIdx.toNat + 1 = s.cfg.dec.hdr.length := hlen.symm
      rw [e, if_pos hlast, if_pos hlast]
      rfl
    · have hpos := List.length_pos_of_ne_nil hn
      obtain ⟨-, hH, -⟩ := s.cfg.dec.wf_iff.mp hc
      have hmore : ¬ s.sigIdx.toNat + 1 = s.cfg.dec.hdr.length := by omega
      have hidx : (s.sigIdx + 1).toNat = s.sigIdx.toNat + 1 := by bv_omega
      rw [e, if_neg hmore, if_neg hmore]
      exact ih hc hp (by rw [← hrest, ← hidx]) hn

/-- The first header byte restarts the match from every index: at 0 it matches, elsewhere it is the mismatch that R89 looks at
again. -/
theorem byteNext_hdr_first {s : State} {b : Byte} (hc : s.cfg.dec.wf = true) (hp : s.phase = .header)
    (hi : s.sigIdx.toNat < s.cfg.dec.hdr.length) (hb : s.cfg.dec.hdr[0]? = some b) :
    byteRule b s ≠ .frameComplete ∧
      byteNext b s = { s with sigIdx := 1, frameReady := false, frameDone := false, result := .done false } := by
  have h0 : headerByte s.cfg.dec 0 = b := headerByte_of_getElem? hb
  by_cases hz : s.sigIdx = 0
  · obtain ⟨hH, -⟩ := s.cfg.dec.wf_iff.mp hc
    have r : byteRule b s = .headerMatch := by rw [byteRule, hp, hz]; exact if_pos h0.symm
    have hmore : ¬ s.sigIdx.toNat + 1 = s.cfg.dec.hdr.length := by rw [hz]; exact Nat.ne_of_lt hH
    refine ⟨by simp [r], ?_⟩
    rw [byteNext_headerMatch r, if_neg hmore, if_neg hmore, hz]
    rfl
  · have hother : b ≠ headerByte s.cfg.dec s.sigIdx := by
      intro h
      have hsame : s.cfg.dec.hdr[s.sigIdx.toNat]? = s.cfg.dec.hdr[0]? := by
        rw [hb, h, List.getElem?_eq_getElem hi, headerByte_of_getElem? (List.getElem?_eq_getElem hi)]
      exact hz (BitVec.eq_of_toNat_eq (FrameClass.hdr_injective hc hi hsame))
    have r : byteRule b s = .headerMismatch := by simp [byteRule, hp, hother]
    refine ⟨by simp [r], ?_⟩
    rw [byteNext_headerMismatch r, if_pos h0.symm]

/-- The header leads to LEN0 from every index of the header search (R106). -/
theorem feed_hdr {s : State} (h : GoodState s) (hp : s.phase = .header) :
    feed s.cfg.dec.hdr s = .next
      ({ s with phase := .len0, sigIdx := 0, frameReady := false, frameDone := false, result := .done false },
        List.replicate s.cfg.dec.hdr.length false) := by
  obtain ⟨hc, -⟩ := s.cfg.wf_iff.mp h.cfgWf
  obtain ⟨hH, -⟩ := h.bounds
  generalize hd : s.cfg.dec.hdr = hdr at hH
  match hdr, hH with
  | b :: c :: rest, _ =>
    obtain ⟨hb, e⟩ := byteNext_hdr_first hc hp h.sigRange (by rw [hd]; rfl)
    refine feed_cons_replicate hb ?_
    rw [e]
    exact feed_hdr_rest hc hp (by dsimp only; rw [hd]; rfl) (List.cons_ne_nil c rest)

/-! ### The length field (R90, R92) -/

/-- A length below CAP leads to PAYLOAD, or to FOOTER where it is 0. -/
theorem feed_ser16 {s : State} {v : Word16} (hp : s.phase = .len0) (hv : v.toNat < s.cfg.cap) :
    feed (ser16 s.cfg.dec.order v) s = .next
      ({ s with
          phase := if v = 0 then .footer else .payload
          sigIdx := 0, len := v, wrPtr := 0, frameReady := false, frameDone := false, result := .done false },
        List.replicate 2 false) := by
  obtain ⟨b0, b1, hbytes, hval⟩ := ser16_assembles s.cfg.dec.order v
  have r0 : byteRule b0 s = .firstLength := by simp [byteRule, hp]
  have e0 := byteNext_firstLength r0
  have r1 : byteRule b1 (byteNext b0 s) = .lengthAccepted := by
    rw [e0]
    simp [byteRule, hval, hv]
  rw [hbytes]
  refine feed_cons_replicate (by simp [r0]) (feed_cons_replicate (bs := []) (by simp [r1]) ?_)
  rw [byteNext_lengthAccepted r1, e0, hval]
  rfl

/-! ### The payload (R93, R43) -/

/-- The buffer after the bytes are stored from index `i` on. -/
def Memory.writeAll (m : Memory) (i : Nat) : List Byte → Memory
  | [] => m
  | b :: bs => Memory.writeAll (m.write i b) (i + 1) bs

/-- Storing from `i` on changes no cell below `i`. -/
theorem Memory.read_writeAll_below (m : Memory) {i j : Nat} (bs : List Byte) (h : j < i) :
    (m.writeAll i bs).read j = m.read j := by
  induction bs generalizing m i with
  | nil => rfl
  | cons b bs ih => exact (ih (m.write i b) (Nat.lt_succ_of_lt h)).trans (Memory.read_write_other m b (Nat.ne_of_lt h))

/-- What has been stored reads back in order (R101). -/
theorem Memory.readRange_writeAll (m : Memory) (i : Nat) (bs : List Byte) :
    (m.writeAll i bs).readRange i bs.length = some bs := by
  induction bs generalizing m i with
  | nil => rfl
  | cons b bs ih =>
    have hb : ((m.write i b).writeAll (i + 1) bs).read i = some b := by
      rw [Memory.read_writeAll_below _ bs (Nat.lt_succ_self i), Memory.read_write_same]
    simp only [Memory.writeAll, List.length_cons, Memory.readRange, hb, ih]

/-- As many bytes as are missing fill the payload and lead to FOOTER. `len < CAP ≤ 64` keeps `wr_ptr` from wrapping. -/
theorem feed_payload {s : State} {bs : List Byte} {i : Nat} (hp : s.phase = .payload) (hlen : s.len.toNat < s.cfg.cap)
    (hcap : s.cfg.cap ≤ 64) (hi : s.wrPtr.toNat = i) (hbs : i + bs.length = s.len.toNat) (hne : bs ≠ []) :
    feed bs s = .next
      ({ s with
          phase := .footer, sigIdx := 0, wrPtr := s.len.setWidth 6, buf := s.buf.writeAll i bs
          frameReady := false, frameDone := false, result := .done false },
        List.replicate bs.length false) := by
  induction bs generalizing s i with
  | nil => exact absurd rfl hne
  | cons b bs ih =>
    rw [List.length_cons] at hbs
    have r : byteRule b s = .payloadByte := (byteRule_eq_payloadByte_iff b s).mpr ⟨hp, by omega, hlen⟩
    have e := byteNext_payloadByte r
    rw [hi] at e
    refine feed_cons_replicate (by simp [r]) ?_
    by_cases hn : bs = []
    · subst hn
      have hlast : i + 1 = s.len.toNat := hbs
      have hptr : s.wrPtr + 1 = s.len.setWidth 6 := by bv_omega
      rw [e, if_pos hlast, if_pos hlast, hptr]
      rfl
    · have hpos := List.length_pos_of_ne_nil hn
      have hmore : ¬ i + 1 = s.len.toNat := by omega
      have hnext : (s.wrPtr + 1).toNat = i + 1 := by bv_omega
      have hmissing : i + 1 + bs.length = s.len.toNat := by omega
      rw [e, if_neg hmore, if_neg hmore]
      exact ih hp hlen hcap hnext hmissing hn

/-- The length field and the payload it declares. -/
theorem feed_body {s : State} {p : List Byte} (hp : s.phase = .len0) (hl : p.length < s.cfg.cap) (hcap : s.cfg.cap ≤ 64) :
    feed (ser16 s.cfg.dec.order (BitVec.ofNat 16 p.length) ++ p) s = .next
      ({ s with
          phase := .footer, sigIdx := 0, len := BitVec.ofNat 16 p.length, wrPtr := (BitVec.ofNat 16 p.length).setWidth 6
          buf := s.buf.writeAll 0 p, frameReady := false, frameDone := false, result := .done false },
        List.replicate (2 + p.length) false) := by
  have hv : (BitVec.ofNat 16 p.length).toNat = p.length := Nat.mod_eq_of_lt (by omega)
  have hfield := feed_ser16 (v := BitVec.ofNat 16 p.length) hp (hv.symm ▸ hl)
  rw [List.replicate_add]
  refine feed_append hfield ?_
  by_cases hn : p = []
  · subst hn
    rfl
  · have hpos := List.length_pos_of_ne_nil hn
    have hnz : ¬ BitVec.ofNat 16 p.length = 0 := by bv_omega
    rw [if_neg hnz]
    exact feed_payload rfl (hv.symm ▸ hl) hcap rfl ((Nat.zero_add _).trans hv.symm) hn

/-! ### The footer (R95, R96) and the whole frame -/

/-- The rest of the footer from `sig_idx` on completes the frame, on its last byte only. -/
theorem feed_ftr_rest {s : State} {rest : List Byte} (hc : s.cfg.dec.wf = true) (hp : s.phase = .footer)
    (hr : s.cfg.dec.ftr.drop s.sigIdx.toNat = rest) (hne : rest ≠ []) :
    feed rest s = .next
      ({ s with phase := .header, sigIdx := 0, wrPtr := 0, frameReady := true, frameDone := true, result := .done true },
        List.replicate (rest.length - 1) false ++ [true]) := by
  induction rest generalizing s with
  | nil => exact absurd rfl hne
  | cons b rest ih =>
    obtain ⟨hb, hrest, hlen⟩ := signature_of_drop_eq_cons hr
    by_cases hn : rest = []
    · subst hn
      have r : byteRule b s = .frameComplete := (byteRule_eq_frameComplete_iff b s).mpr ⟨hp, hlen.symm, hb⟩
      rw [feed_cons b [] s (feed_nil _), byteNext_frameComplete r]
      rfl
    · have hpos := List.length_pos_of_ne_nil hn
      obtain ⟨-, hH, hF, -⟩ := s.cfg.dec.wf_iff.mp hc
      have hmore : ¬ s.sigIdx.toNat + 1 = s.cfg.dec.ftr.length := by omega
      have hidx : (s.sigIdx + 1).toNat = s.sigIdx.toNat + 1 := by bv_omega
      have r : byteRule b s = .footerMatch := by simp [byteRule, hp, footerMatches_iff, hb, hmore]
      have e := byteNext_footerMatch r
      have hfeed := ih (s := byteNext b s) (by rw [e]; exact hc) (by rw [e]; exact hp) (by rw [e, ← hrest, ← hidx]) hn
      rw [feed_cons b rest s hfeed, e, List.length_cons, Nat.add_sub_cancel, ← List.cons_append, ← List.replicate_succ,
        Nat.sub_add_cancel hpos]

/-- A whole frame of an admitted length, from every state of the header search: the payload stands in the buffer from cell 0 on and
`frame_ready` is set (R102). -/
theorem feed_frame {s : State} {p : List Byte} (h : GoodState s) (hp : s.phase = .header) (hl : p.length < s.cfg.cap) :
    feed (s.cfg.dec.hdr ++ ser16 s.cfg.dec.order (BitVec.ofNat 16 p.length) ++ p ++ s.cfg.dec.ftr) s = .next
      ({ s with
          phase := .header, sigIdx := 0, len := BitVec.ofNat 16 p.length, wrPtr := 0, buf := s.buf.writeAll 0 p
          frameReady := true, frameDone := true, result := .done true },
        List.replicate (s.cfg.dec.hdr.length + 2 + p.length + s.cfg.dec.ftr.length - 1) false ++ [true]) := by
  obtain ⟨hc, -⟩ := s.cfg.wf_iff.mp h.cfgWf
  obtain ⟨hH, -, hF, -, hcap⟩ := h.bounds
  have hpos : 0 < s.cfg.dec.ftr.length := by omega
  have hcount : s.cfg.dec.hdr.length + 2 + p.length + s.cfg.dec.ftr.length - 1 =
      s.cfg.dec.hdr.length + (2 + p.length) + (s.cfg.dec.ftr.length - 1) := by omega
  rw [hcount, List.replicate_add, List.replicate_add, List.append_assoc (List.replicate _ _ ++ _),
    List.append_assoc s.cfg.dec.hdr]
  have hbody := feed_append (feed_hdr h hp) (feed_body rfl hl hcap)
  exact feed_append hbody (feed_ftr_rest hc rfl rfl (List.ne_nil_of_length_pos hpos))

/-- TAKE of a ready frame whose cells are written (R101). -/
theorem exec_takeWhole_of_readRange {s : State} {bytes : List Byte} (hr : s.frameReady = true)
    (hl : s.len.toNat ≤ s.cfg.cap) (hb : s.buf.readRange 0 s.len.toNat = some bytes) :
    exec (.take .whole) s = .next (s.answer (.payload s.len bytes)) := by
  show takeWhole s = _
  simp [takeWhole, hr, Nat.not_lt_of_le hl, hb]

end Sys2Proof.Machine

open Sys2Proof Sys2Proof.Machine

/-- Settles O52: the frame is fed part by part, and its payload is read back from the cells it was stored in. -/
theorem everyFrameCompletes : Obligations.EveryFrameCompletes := by
  intro s p h hp hl
  obtain ⟨-, -, -, -, hcap⟩ := h.bounds
  have hv : (BitVec.ofNat 16 p.length).toNat = p.length := Nat.mod_eq_of_lt (by omega)
  refine ⟨_, feed_frame h hp hl, rfl, rfl, hv, exec_takeWhole_of_readRange rfl (by dsimp only; omega) ?_⟩
  dsimp only
  rw [hv]
  exact Memory.readRange_writeAll s.buf 0 p
end

section
/-! PROOFS. The decoder's operations one by one (spec/40_decoder.md R85 to R101): the rule each phase selects, RESET, IDLE, BYTE
and the outcomes of TAKE. -/

namespace Sys2Proof.Machine

/-! ### The rule each phase selects (R85) -/

section
variable {s : State} (d : Byte)

theorem byteRule_header (hp : s.phase = .header) :
    byteRule d s = if d = headerByte s.cfg.dec s.sigIdx then .headerMatch else .headerMismatch := by simp only [byteRule, hp]

theorem byteRule_len0 (hp : s.phase = .len0) : byteRule d s = .firstLength := by simp only [byteRule, hp]

theorem byteRule_len1 (hp : s.phase = .len1) :
    byteRule d s =
      if s.cfg.cap ≤ (lenSecond s.cfg.dec.order s.len d).toNat then .lengthRejected else .lengthAccepted := by
  simp only [byteRule, hp]

/-- R94 takes every byte that R93's guard does not. -/
theorem byteRule_payload_violation (hp : s.phase = .payload) (h : s.len.toNat ≤ s.wrPtr.toNat ∨ s.cfg.cap ≤ s.len.toNat) :
    byteRule d s = .payloadViolation := by
  have hguard : ¬ (s.wrPtr.toNat < s.len.toNat ∧ s.len.toNat < s.cfg.cap) := by omega
  simp only [byteRule, hp, if_neg hguard]

theorem byteRule_footer (hp : s.phase = .footer) :
    byteRule d s =
      if s.cfg.dec.ftr[s.sigIdx.toNat]? = some d then
        if s.sigIdx.toNat + 1 = s.cfg.dec.ftr.length then .frameComplete else .footerMatch
      else .footerMismatch := by
  simp only [byteRule, hp, footerMatches_iff]

theorem byteRule_illegal (hp : s.phase.legal = false) : byteRule d s = .illegalPhase := by
  cases h : s.phase with
  | header | len0 | len1 | payload | footer => simp [h, Phase.legal] at hp
  | illegal5 | illegal6 | illegal7 => simp only [byteRule, h]

end

/-- The illegal phases are the codes 5, 6 and 7 (R21). -/
theorem Phase.legal_eq_false_iff (p : Phase) : p.legal = false ↔ p.code = 5 ∨ p.code = 6 ∨ p.code = 7 := by
  cases p <;> decide

/-! ### ENC and ENCB (R120, R122) -/

/-- ENC and ENCB, where they complete, answer an output and move the counter only where a payload byte is not served (log 17). -/
theorem exec_encoder_next {s t : State} {i : Instr} {cmd : Word16} {p : PayloadPort}
    (hi : i = .enc cmd p ∨ ∃ j, i = .encb cmd p j) (h : exec i s = .next t) :
    ∃ r v, t = (s.answer r).countFree v ∧ (p.plen.toNat ≤ p.served.length → v = false) := by
  rcases hi with rfl | ⟨j, rfl⟩
  · obtain ⟨r, v, e, hv⟩ := execEnc_next cmd p s
    cases e.symm.trans h
    exact ⟨r, v, rfl, hv⟩
  · rcases execEncb_cases cmd p j s with ⟨-, -, e⟩ | ⟨-, v, e, hv⟩
    · cases e.symm.trans h
    · cases e.symm.trans h
      exact ⟨_, v, rfl, hv⟩

/-! ### The outcomes of TAKE (R101, R52) -/

section
variable {s : State}

theorem exec_take_of_not_ready (h : s.frameReady = false) (form : ReadForm) :
    exec (.take form) s = .fault (.preconditionError .notReady) := by
  cases form with
  | whole => exact if_pos h
  | port a => exact if_pos h

theorem exec_takeWhole_of_cap_lt (hr : s.frameReady = true) (h : s.cfg.cap < s.len.toNat) :
    exec (.take .whole) s = .fault (.preconditionError .outOfRange) := by
  show takeWhole s = _
  simp [takeWhole, hr, h]

/-- One cell without a value among the payload's is enough for TAKE to fault (R52). -/
theorem exec_takeWhole_of_unwritten (hr : s.frameReady = true) (hl : s.len.toNat ≤ s.cfg.cap) {i : Nat}
    (hi : i < s.len.toNat) (h : s.buf.read i = none) : exec (.take .whole) s = .fault (.preconditionError .unwritten) := by
  have hnone : s.buf.readRange 0 s.len.toNat = none := by
    refine Option.eq_none_iff_forall_ne_some.mpr fun bytes hb => ?_
    have hsome := (Memory.readRange_isSome s.buf s.len.toNat 0).mp (by simp [hb]) i hi
    simp [h] at hsome
  show takeWhole s = _
  simp [takeWhole, hr, Nat.not_lt_of_le hl, hnone]

theorem exec_takePort_out_of_range (hr : s.frameReady = true) {a : Addr} (h : s.len.toNat ≤ a.toNat ∨ s.cfg.cap ≤ a.toNat) :
    exec (.take (.port a)) s = .fault (.preconditionError .outOfRange) := by
  show takePort a s = _
  simp [takePort, hr, h]

/-- Inside the window one access answers what the cell holds, or faults where it holds nothing. -/
theorem exec_takePort_in_range (hr : s.frameReady = true) {a : Addr} (hl : a.toNat < s.len.toNat) (hc : a.toNat < s.cfg.cap) :
    exec (.take (.port a)) s =
      (s.buf.read a.toNat).elim (.fault (.preconditionError .unwritten)) fun b => .next (s.answer (.readData s.len b)) := by
  have hin : ¬ (s.len.toNat ≤ a.toNat ∨ s.cfg.cap ≤ a.toNat) := by omega
  show takePort a s = _
  rw [takePort, if_neg (by simp [hr]), if_neg hin, State.rdData_of_lt_cap hc]
  cases s.buf.read a.toNat <;> rfl

end

end Sys2Proof.Machine

open Sys2Proof Sys2Proof.Machine

/-- Settles O25: the flags and the output say whether the completing rule R96 was taken. -/
theorem byteIsTotalAndDoneOnlyOnCompletion : Obligations.ByteIsTotalAndDoneOnlyOnCompletion := fun s d =>
  ⟨_, _, exec_byte d s, byteNext_result d s, byteNext_frameDone d s, byteNext_frameReady d s,
    decide_eq_true_iff.trans (byteRule_eq_frameComplete_iff d s)⟩

/-- Settles O19: R93 stores at `wr_ptr`, and the buffer's laws say what every cell then reads as. -/
theorem payloadByteStored : Obligations.PayloadByteStored := by
  intro s d hp hptr hlen
  have e := byteNext_payloadByte ((byteRule_eq_payloadByte_iff d s).mpr ⟨hp, hptr, hlen⟩)
  rw [hp] at e
  refine ⟨_, exec_byte d s, ?_, ?_, fun a ha => ?_⟩ <;> rw [e]
  · exact Memory.read_write_same _ _ _
  · exact Memory.read_write_other _ d ha

/-- Settles O27: each of the three answers the state with its output; the counter moves only where a byte is not served. -/
theorem readAndEncodeFrame : Obligations.ReadAndEncodeFrame := by
  constructor
  · intro s t f h
    obtain ⟨r, rfl⟩ := execTake_next h
    exact ⟨rfl, fun _ => rfl⟩
  · intro s t i cmd p hi h
    obtain ⟨r, v, rfl, hv⟩ := exec_encoder_next hi h
    exact ⟨rfl, fun _ => rfl, fun hp => by rw [hv hp]; rfl⟩

/-- Settles O33: where every cell of the payload is written the range read has an answer, and it is the cells' own. -/
theorem takeReturnsThePayload : Obligations.TakeReturnsThePayload := by
  intro s hr hl hw
  obtain ⟨bytes, hb⟩ := Option.isSome_iff_exists.mp
    ((Memory.readRange_isSome s.buf s.len.toNat 0).mpr fun k hk => by rw [Nat.zero_add]; exact hw k hk)
  obtain ⟨hlen, hcells⟩ := (Memory.readRange_spec s.buf s.len.toNat 0 bytes).mp hb
  refine ⟨bytes, exec_takeWhole_of_readRange hr hl hb, hlen, fun i hi => ?_⟩
  rw [← hcells i hi, Nat.zero_add]

/-- Settles O35, check by check in the order of R101. -/
theorem readOutsideTheWindowFaults : Obligations.ReadOutsideTheWindowFaults := fun s =>
  ⟨exec_take_of_not_ready, fun hr _ => exec_takePort_out_of_range hr,
    fun hr a hl hc hn => by rw [exec_takePort_in_range hr hl hc, hn]; rfl,
    fun hr hl _ => exec_takeWhole_of_unwritten hr hl, exec_takeWhole_of_cap_lt⟩

/-- Settles O12: the row of RESET, and `Reset()` with `done = false`. -/
theorem resetEffect : Obligations.ResetEffect :=
  ⟨fun _ h => congrArg Except.ok (decodeDiw_reset h), exec_reset⟩

/-- Settles O14: the row of IDLE, and `done = false`. -/
theorem idleEffect : Obligations.IdleEffect :=
  ⟨fun _ h => congrArg Except.ok (decodeDiw_idle h), exec_idle⟩

/-- Settles O15: the comparison selects R88. -/
theorem headerByteMatches : Obligations.HeaderByteMatches := by
  intro s d hp hd
  have r : byteRule d s = .headerMatch := by rw [byteRule_header d hp, headerByte_of_getElem? hd, if_pos rfl]
  rw [exec_byte, byteNext_headerMatch r]
  split <;> rfl

/-- Settles O16: the comparison selects R89, which looks at the first header byte. -/
theorem headerByteMismatches : Obligations.HeaderByteMismatches := by
  intro s d h0 h hp hh0 hh hd
  have r : byteRule d s = .headerMismatch := by rw [byteRule_header d hp, headerByte_of_getElem? hh, if_neg hd]
  rw [exec_byte, byteNext_headerMismatch r, headerByte_of_getElem? (i := 0) hh0]

/-- Settles O17: `zext_16` is the zero extension the statement writes out. -/
theorem firstLengthByte : Obligations.FirstLengthByte := by
  intro s d hp
  rw [exec_byte, byteNext_firstLength (byteRule_len0 d hp)]
  cases s.cfg.dec.order <;> rfl

/-- Settles O18: `L` is the length field as the class's byte order assembles it. -/
theorem secondLengthByte : Obligations.SecondLengthByte := by
  intro s d L hp hle hbe
  have hL : lenSecond s.cfg.dec.order s.len d = L := by
    cases ho : s.cfg.dec.order with
    | le => exact (hle ho).symm
    | be => exact (hbe ho).symm
  have r := byteRule_len1 d hp
  rw [hL] at r
  constructor
  · intro h
    rw [exec_byte, byteNext_resync (.inl (r.trans (if_pos h)))]
  · intro h
    rw [exec_byte, byteNext_lengthAccepted (r.trans (if_neg (Nat.not_le_of_lt h))), hL]

/-- Settles O20: R94 and R98 both call `Reset()`. -/
theorem corruptStateRecovers : Obligations.CorruptStateRecovers := by
  rintro s d (⟨hp, h⟩ | h)
  · rw [exec_byte, byteNext_resync (.inr (.inl (byteRule_payload_violation d hp h)))]
  · rw [exec_byte, byteNext_resync (.inr (.inr (.inr (byteRule_illegal d ((Phase.legal_eq_false_iff _).mpr h)))))]

/-- Settles O21: a footer byte that matches before the last selects R95. -/
theorem footerByteMatches : Obligations.FooterByteMatches := by
  intro s d hp hd hi
  have hmore : ¬ s.sigIdx.toNat + 1 = s.cfg.dec.ftr.length := by omega
  rw [exec_byte, byteNext_footerMatch (by rw [byteRule_footer d hp, if_pos hd, if_neg hmore])]

/-- Settles O22: an index that the footer has is below F, so `sig_idx = F - 1` is its last. -/
theorem lastFooterByteCompletes : Obligations.LastFooterByteCompletes := by
  intro s d hp hd hi
  obtain ⟨hlt, -⟩ := List.getElem?_eq_some_iff.mp hd
  have hlast : s.sigIdx.toNat + 1 = s.cfg.dec.ftr.length := by omega
  rw [exec_byte, byteNext_frameComplete ((byteRule_eq_frameComplete_iff d s).mpr ⟨hp, hlast, hd⟩)]

/-- Settles O23: what does not match selects R97. -/
theorem footerByteMismatches : Obligations.FooterByteMismatches := by
  intro s d f hp hf hd
  have hne : ¬ s.cfg.dec.ftr[s.sigIdx.toNat]? = some d := by simpa [hf] using Ne.symm hd
  rw [exec_byte, byteNext_resync (.inr (.inr (.inl (by rw [byteRule_footer d hp, if_neg hne]))))]

/-- Settles O24: in HEADER the free header byte decides between R88, whose last index is below H, and R89; in FOOTER nothing
matches. -/
theorem indexBeyondTheSignature : Obligations.IndexBeyondTheSignature := by
  intro s d h0
  constructor
  · intro hp hh0 hi
    have r := byteRule_header d hp
    by_cases hd : d = headerByte s.cfg.dec s.sigIdx
    · have hpast : ¬ s.sigIdx.toNat + 1 = s.cfg.dec.hdr.length := by omega
      rw [if_pos hd] at r
      rw [exec_byte, byteNext_headerMatch r, if_neg hpast, if_neg hpast]
      exact .inl rfl
    · rw [if_neg hd] at r
      rw [exec_byte, byteNext_headerMismatch r, headerByte_of_getElem? (i := 0) hh0]
      exact .inr rfl
  · intro hp hi
    have hne : ¬ s.cfg.dec.ftr[s.sigIdx.toNat]? = some d := by simp [List.getElem?_eq_none hi]
    rw [exec_byte, byteNext_resync (.inr (.inr (.inl (by rw [byteRule_footer d hp, if_neg hne]))))]

/-- Settles O34: inside the window the port and TAKE both show the cell. -/
theorem readPortReturnsTheCell : Obligations.ReadPortReturnsTheCell := by
  intro s a b hr hl hc hb
  rw [exec_takePort_in_range hr hl hc, State.rdData_of_lt_cap hc, hb]
  exact ⟨rfl, rfl⟩
end

section
/-! PROOFS. The header search and what a completion means (spec/40_decoder.md R102 to R106): what the bytes consumed so far end
with, followed through FEED. -/

namespace Sys2Proof.Machine

/-! ### Beginnings of a signature at the end of a stream -/

section
variable {sig seen : List Byte} {b : Byte} {i : Nat}

theorem concat_suffix_concat_iff {xs : List Byte} {a : Byte} : xs ++ [a] <:+ seen ++ [b] ↔ a = b ∧ xs <:+ seen := by
  simp [List.suffix_concat_iff, and_comm]

/-- A stream and one more byte end with one more byte of the signature exactly where the stream ended with the part before it. -/
theorem take_succ_suffix_concat_iff (hi : i < sig.length) :
    sig.take (i + 1) <:+ seen ++ [b] ↔ sig[i]? = some b ∧ sig.take i <:+ seen := by
  rw [List.take_succ_eq_append_getElem hi, concat_suffix_concat_iff, List.getElem?_eq_getElem hi, Option.some_inj]

/-- Where no byte of the signature occurs twice, only its empty beginning ends a stream together with a longer one. -/
theorem eq_zero_of_take_suffix (hn : sig.Nodup) {j : Nat} (hi : i ≤ sig.length) (hji : j < i) (hseen : sig.take i <:+ seen)
    (hj : sig.take j <:+ seen) : j = 0 := by
  by_contra h0
  have hsuffix : sig.take j <:+ sig.take i := List.suffix_of_suffix_length_le hj hseen (by simp; omega)
  have hdrop := List.suffix_iff_eq_drop.mp hsuffix
  rw [List.length_take_of_le hi, List.length_take_of_le (hji.le.trans hi)] at hdrop
  have hsame : sig[0]? = sig[i - j]? := by
    rw [← List.getElem?_take_of_lt (Nat.pos_of_ne_zero h0), hdrop, List.getElem?_drop, Nat.add_zero,
      List.getElem?_take_of_lt (by omega)]
  have := (List.getElem?_inj (by omega) hn).mp hsame
  omega

/-- No beginning of the signature but the whole of it that ends the stream is longer than `i` (R106). -/
def LongestBelow (sig seen : List Byte) (i : Nat) : Prop := ∀ k, k < sig.length → sig.take k <:+ seen → k ≤ i

theorem LongestBelow.concat (h : LongestBelow sig seen i) (b : Byte) : LongestBelow sig (seen ++ [b]) (i + 1) := by
  intro k hk hs
  cases k with
  | zero => exact Nat.zero_le _
  | succ k =>
    obtain ⟨-, hs'⟩ := (take_succ_suffix_concat_iff (Nat.lt_of_succ_lt hk)).mp hs
    exact Nat.succ_le_succ (h k (Nat.lt_of_succ_lt hk) hs')

/-- After a byte other than the next of the signature, at most its first byte is left of the match: R89 looks at no more. -/
theorem LongestBelow.concat_mismatch (h : LongestBelow sig seen i) (hn : sig.Nodup) (hi : i < sig.length)
    (hseen : sig.take i <:+ seen) (hb : sig[i]? ≠ some b) :
    LongestBelow sig (seen ++ [b]) (if sig[0]? = some b then 1 else 0) := by
  intro k hk hs
  cases k with
  | zero => exact Nat.zero_le _
  | succ k =>
    have hk' := Nat.lt_of_succ_lt hk
    obtain ⟨hkb, hs'⟩ := (take_succ_suffix_concat_iff hk').mp hs
    have hne : k ≠ i := fun e => hb (e ▸ hkb)
    have hki : k < i := Nat.lt_of_le_of_ne (h k hk' hs') hne
    obtain rfl := eq_zero_of_take_suffix hn hi.le hki hseen hs'
    rw [if_pos hkb]

/-- What R89 keeps of the match: the byte itself, where it is the signature's first. -/
theorem take_restart_suffix (sig seen : List Byte) (b : Byte) :
    sig.take (if sig[0]? = some b then 1 else 0) <:+ seen ++ [b] := by
  split
  case isTrue hb =>
    obtain ⟨h0, -⟩ := List.getElem?_eq_some_iff.mp hb
    exact (take_succ_suffix_concat_iff h0).mpr ⟨hb, List.nil_suffix⟩
  case isFalse => exact List.nil_suffix

/-- The part matched so far is itself the longest beginning that ends it. -/
theorem LongestBelow.take (sig : List Byte) (i : Nat) : LongestBelow sig (sig.take i) i := by
  intro k hk hs
  have := hs.length_le
  simp only [List.length_take] at this
  omega

end

/-! ### What every byte keeps, FEED keeps -/

theorem feed_keeps {P : List Byte → State → Prop} (keeps : ∀ seen s b, P seen s → P (seen ++ [b]) (byteNext b s))
    {bs seen : List Byte} {s t : State} {ds : List Bool} (hs : P seen s) (h : feed bs s = .next (t, ds)) :
    P (seen ++ bs) t := by
  induction bs generalizing seen s ds with
  | nil =>
    cases h
    rwa [List.append_nil]
  | cons b bs ih =>
    obtain ⟨u, es, e⟩ := feed_next bs (byteNext b s)
    cases (feed_cons b bs s e).symm.trans h
    rw [← List.singleton_append, ← List.append_assoc]
    exact ih (keeps seen s b hs) e

theorem GoodState.of_feed {s t : State} {bs : List Byte} {ds : List Bool} (hs : GoodState s)
    (h : feed bs s = .next (t, ds)) : GoodState t :=
  feed_keeps (P := fun _ => GoodState) (seen := []) (fun _ _ b h => h.of_byteNext b) hs h

theorem feed_cfg {s t : State} {bs : List Byte} {ds : List Bool} (h : feed bs s = .next (t, ds)) : t.cfg = s.cfg :=
  feed_keeps (P := fun _ u => u.cfg = s.cfg) (seen := []) (fun _ u b h => (byteNext_cfg b u).trans h) rfl h

/-! ### One byte of the header search (R88, R89) -/

/-- Where the signature has the index, the comparison of R88 is with its own byte. -/
theorem headerByte_eq_iff {c : FrameClass} {i : BitVec 2} (hi : i.toNat < c.hdr.length) (d : Byte) :
    d = headerByte c i ↔ c.hdr[i.toNat]? = some d := by
  rw [headerByte_of_getElem? (List.getElem?_eq_getElem hi), List.getElem?_eq_getElem hi, Option.some_inj, eq_comm]

theorem GoodState.hdr_nodup {s : State} (h : GoodState s) : s.cfg.dec.hdr.Nodup := by
  obtain ⟨hc, -⟩ := s.cfg.wf_iff.mp h.cfgWf
  obtain ⟨-, -, -, hn, -⟩ := s.cfg.dec.wf_iff.mp hc
  exact hn

/-- One byte of the header search, its index read against the bytes consumed. -/
theorem GoodState.byteNext_header_cases {s : State} (h : GoodState s) (hp : s.phase = .header) (b : Byte) :
    (s.cfg.dec.hdr[s.sigIdx.toNat]? = some b ∧ s.sigIdx.toNat + 1 = s.cfg.dec.hdr.length ∧
      (byteNext b s).phase = .len0) ∨
    (s.cfg.dec.hdr[s.sigIdx.toNat]? = some b ∧ (byteNext b s).phase = .header ∧
      (byteNext b s).sigIdx.toNat = s.sigIdx.toNat + 1) ∨
    (s.cfg.dec.hdr[s.sigIdx.toNat]? ≠ some b ∧ (byteNext b s).phase = .header ∧
      (byteNext b s).sigIdx.toNat = if s.cfg.dec.hdr[0]? = some b then 1 else 0) := by
  obtain ⟨hH2, hH4, -⟩ := h.bounds
  have r := byteRule_header b hp
  simp only [headerByte_eq_iff h.sigRange] at r
  by_cases hb : s.cfg.dec.hdr[s.sigIdx.toNat]? = some b
  · rw [byteNext_headerMatch (r.trans (if_pos hb))]
    by_cases hl : s.sigIdx.toNat + 1 = s.cfg.dec.hdr.length
    · exact .inl ⟨hb, hl, if_pos hl⟩
    · have hi := h.sigRange
      have hnext : (s.sigIdx + 1).toNat = s.sigIdx.toNat + 1 := by bv_omega
      exact .inr (.inl ⟨hb, (if_neg hl).trans hp, (congrArg BitVec.toNat (if_neg hl)).trans hnext⟩)
  · rw [byteNext_headerMismatch (r.trans (if_neg hb))]
    have h0 : b = headerByte s.cfg.dec 0 ↔ s.cfg.dec.hdr[0]? = some b := headerByte_eq_iff (i := 0) (Nat.zero_lt_of_lt hH2) b
    simp only [h0]
    exact .inr (.inr ⟨hb, hp, by split <;> rfl⟩)

/-! ### The length field and the payload, read back (R63, R101) -/

/-- Each order puts the two bytes in places of their own (R63). -/
theorem lenSecond_lenFirst_inj {o : ByteOrder} {b0 b1 c0 c1 : Byte}
    (h : lenSecond o (lenFirst o b0) b1 = lenSecond o (lenFirst o c0) c1) : b0 = c0 ∧ b1 = c1 := by
  have hnat := congrArg BitVec.toNat h
  cases o with
  | le =>
    rw [toNat_lenSecond_le, toNat_lenSecond_le] at hnat
    constructor <;> bv_omega
  | be =>
    rw [toNat_lenSecond_be, toNat_lenSecond_be] at hnat
    constructor <;> bv_omega

/-- The two bytes that assembled a length are its wire form (R13, R63). -/
theorem ser16_lenSecond (o : ByteOrder) (b0 b1 : Byte) : ser16 o (lenSecond o (lenFirst o b0) b1) = [b0, b1] := by
  obtain ⟨c0, c1, hser, hval⟩ := ser16_assembles o (lenSecond o (lenFirst o b0) b1)
  obtain ⟨rfl, rfl⟩ := lenSecond_lenFirst_inj hval
  exact hser

/-- Storing the next cell makes the range read one byte longer (R93, R101). -/
theorem Memory.readRange_write_next {m : Memory} {n : Nat} {p : List Byte} (h : m.readRange 0 n = some p) (b : Byte) :
    (m.write n b).readRange 0 (n + 1) = some (p ++ [b]) := by
  obtain ⟨hlen, hcells⟩ := (Memory.readRange_spec m n 0 p).mp h
  refine (Memory.readRange_spec _ _ 0 _).mpr ⟨by simp [hlen], fun k hk => ?_⟩
  rw [Nat.zero_add]
  by_cases he : k = n
  · rw [he, Memory.read_write_same, ← hlen, List.getElem?_concat_length]
  · have hkn : k < n := by omega
    rw [Memory.read_write_other m b he, List.getElem?_append_left (hlen.symm ▸ hkn), ← hcells k hkn, Nat.zero_add]

/-! ### What the bytes consumed end with (R102) -/

/-- The part of a frame that the registers say the bytes consumed end with. -/
def StreamEnds (seen : List Byte) (s : State) : Prop :=
  match s.phase with
  | .header => s.cfg.dec.hdr.take s.sigIdx.toNat <:+ seen
  | .len0 => s.cfg.dec.hdr <:+ seen
  | .len1 => ∃ b, s.cfg.dec.hdr ++ [b] <:+ seen ∧ s.len = lenFirst s.cfg.dec.order b
  | .payload | .footer =>
    ∃ p, s.cfg.dec.hdr ++ ser16 s.cfg.dec.order s.len ++ p ++ s.cfg.dec.ftr.take s.sigIdx.toNat <:+ seen ∧
      s.buf.readRange 0 s.wrPtr.toNat = some p
  | .illegal5 | .illegal6 | .illegal7 => True

section
variable {seen : List Byte} {s : State}

theorem take_toNat_zero (sig : List Byte) : sig.take (0 : BitVec 2).toNat = [] := rfl

theorem streamEnds_header (hp : s.phase = .header) :
    StreamEnds seen s ↔ s.cfg.dec.hdr.take s.sigIdx.toNat <:+ seen := by simp only [StreamEnds, hp]

theorem streamEnds_len0 (hp : s.phase = .len0) : StreamEnds seen s ↔ s.cfg.dec.hdr <:+ seen := by
  simp only [StreamEnds, hp]

theorem streamEnds_len1 (hp : s.phase = .len1) :
    StreamEnds seen s ↔ ∃ b, s.cfg.dec.hdr ++ [b] <:+ seen ∧ s.len = lenFirst s.cfg.dec.order b := by
  simp only [StreamEnds, hp]

theorem streamEnds_body (hp : s.phase = .payload ∨ s.phase = .footer) :
    StreamEnds seen s ↔
      ∃ p, s.cfg.dec.hdr ++ ser16 s.cfg.dec.order s.len ++ p ++ s.cfg.dec.ftr.take s.sigIdx.toNat <:+ seen ∧
        s.buf.readRange 0 s.wrPtr.toNat = some p := by
  rcases hp with hp | hp <;> simp only [StreamEnds, hp]

/-- The start of a header search claims nothing. -/
theorem StreamEnds.of_start (hp : s.phase = .header) (hi : s.sigIdx = 0) : StreamEnds seen s := by
  rw [streamEnds_header hp, hi]
  exact List.nil_suffix

/-- `Reset()` leaves the start of a header search (R86). -/
theorem StreamEnds.of_resync {b : Byte}
    (r : byteRule b s = .lengthRejected ∨ byteRule b s = .payloadViolation ∨ byteRule b s = .footerMismatch ∨
      byteRule b s = .illegalPhase) : StreamEnds seen (byteNext b s) := by
  rw [byteNext_resync r]
  exact .of_start rfl rfl

/-- R88 and R89: the part of HDR matched, up to the whole of it. -/
theorem StreamEnds.of_byteNext_header (h : StreamEnds seen s) (good : GoodState s) (hp : s.phase = .header) (b : Byte) :
    StreamEnds (seen ++ [b]) (byteNext b s) := by
  have hends := (streamEnds_header hp).mp h
  have hnext (hb : s.cfg.dec.hdr[s.sigIdx.toNat]? = some b) : s.cfg.dec.hdr.take (s.sigIdx.toNat + 1) <:+ seen ++ [b] :=
    (take_succ_suffix_concat_iff good.sigRange).mpr ⟨hb, hends⟩
  rcases good.byteNext_header_cases hp b with ⟨hb, hl, hp'⟩ | ⟨hb, hp', hi'⟩ | ⟨-, hp', hi'⟩
  · have hwhole := hnext hb
    rw [hl, List.take_length] at hwhole
    rwa [streamEnds_len0 hp', byteNext_cfg]
  · rw [streamEnds_header hp', byteNext_cfg, hi']
    exact hnext hb
  · rw [streamEnds_header hp', byteNext_cfg, hi']
    exact take_restart_suffix _ seen b

/-- R90: the first length byte is held in `len`. -/
theorem StreamEnds.of_byteNext_len0 (h : StreamEnds seen s) (hp : s.phase = .len0) (b : Byte) :
    StreamEnds (seen ++ [b]) (byteNext b s) := by
  rw [byteNext_firstLength (byteRule_len0 b hp)]
  exact (streamEnds_len1 rfl).mpr ⟨b, concat_suffix_concat_iff.mpr ⟨rfl, (streamEnds_len0 hp).mp h⟩, rfl⟩

/-- R92: an accepted length is the two bytes' own, and the payload is still empty. -/
theorem StreamEnds.of_byteNext_len1 (h : StreamEnds seen s) (hp : s.phase = .len1) (b : Byte) :
    StreamEnds (seen ++ [b]) (byteNext b s) := by
  obtain ⟨b0, hends, hlen⟩ := (streamEnds_len1 hp).mp h
  have r := byteRule_len1 b hp
  split at r
  case isTrue => exact .of_resync (.inl r)
  case isFalse =>
    rw [byteNext_lengthAccepted r, streamEnds_body (by dsimp only; split <;> simp)]
    refine ⟨[], ?_, rfl⟩
    dsimp only
    rw [hlen, ser16_lenSecond, List.append_nil]
    simpa using concat_suffix_concat_iff.mpr ⟨rfl, hends⟩

/-- R93: the byte stored is the payload's next, and no footer byte has been seen. -/
theorem StreamEnds.of_byteNext_payload (h : StreamEnds seen s) (good : GoodState s) (hp : s.phase = .payload) (b : Byte) :
    StreamEnds (seen ++ [b]) (byteNext b s) := by
  obtain ⟨p, hends, hread⟩ := (streamEnds_body (.inl hp)).mp h
  obtain ⟨-, -, -, -, hcap⟩ := good.bounds
  have hi := good.sigZero (by simp [hp]) (by simp [hp])
  have hptr := good.ptrPayload hp
  have hlen := good.lenBound (by simp [hp])
  have hnext : (s.wrPtr + 1).toNat = s.wrPtr.toNat + 1 := by bv_omega
  have r := (byteRule_eq_payloadByte_iff b s).mpr ⟨hp, hptr, hlen⟩
  rw [byteNext_payloadByte r, streamEnds_body (by dsimp only; split <;> simp [hp])]
  refine ⟨p ++ [b], ?_, by dsimp only; rw [hnext]; exact Memory.readRange_write_next hread b⟩
  dsimp only
  rw [hi] at hends ⊢
  rw [ite_self, take_toNat_zero, List.append_nil, ← List.append_assoc]
  rw [take_toNat_zero, List.append_nil] at hends
  exact List.suffix_append_self_iff.mpr hends

/-- A footer byte that matches lengthens what the bytes consumed end with. -/
theorem StreamEnds.footer_concat (h : StreamEnds seen s) (hp : s.phase = .footer) {b : Byte}
    (hb : s.cfg.dec.ftr[s.sigIdx.toNat]? = some b) :
    ∃ p, s.cfg.dec.hdr ++ ser16 s.cfg.dec.order s.len ++ p ++ s.cfg.dec.ftr.take (s.sigIdx.toNat + 1) <:+ seen ++ [b] ∧
      s.buf.readRange 0 s.wrPtr.toNat = some p := by
  obtain ⟨p, hends, hread⟩ := (streamEnds_body (.inr hp)).mp h
  obtain ⟨hlt, hb'⟩ := List.getElem?_eq_some_iff.mp hb
  refine ⟨p, ?_, hread⟩
  rw [List.take_succ_eq_append_getElem hlt, hb', ← List.append_assoc]
  exact List.suffix_append_self_iff.mpr hends

/-- R95 lengthens the part of FTR matched; R96 and R97 return to the start of a header search. -/
theorem StreamEnds.of_byteNext_footer (h : StreamEnds seen s) (good : GoodState s) (hp : s.phase = .footer) (b : Byte) :
    StreamEnds (seen ++ [b]) (byteNext b s) := by
  have r := byteRule_footer b hp
  split at r
  case isFalse => exact .of_resync (.inr (.inr (.inl r)))
  case isTrue hb =>
    obtain ⟨hlt, -⟩ := List.getElem?_eq_some_iff.mp hb
    split at r
    case isTrue =>
      rw [byteNext_frameComplete r]
      exact .of_start rfl rfl
    case isFalse hl =>
      obtain ⟨-, hH, hF, -⟩ := good.bounds
      have hnext : (s.sigIdx + 1).toNat = s.sigIdx.toNat + 1 := by bv_omega
      rw [byteNext_footerMatch r, streamEnds_body (.inr (by exact hp))]
      dsimp only
      rw [hnext]
      exact h.footer_concat hp hb

/-- The registers go on saying what the bytes consumed end with. -/
theorem StreamEnds.of_byteNext (h : StreamEnds seen s) (good : GoodState s) (b : Byte) :
    StreamEnds (seen ++ [b]) (byteNext b s) := by
  cases hp : s.phase with
  | header => exact h.of_byteNext_header good hp b
  | len0 => exact h.of_byteNext_len0 hp b
  | len1 => exact h.of_byteNext_len1 hp b
  | payload => exact h.of_byteNext_payload good hp b
  | footer => exact h.of_byteNext_footer good hp b
  | illegal5 | illegal6 | illegal7 =>
    exact .of_resync (.inr (.inr (.inr (byteRule_illegal b (by simp [hp, Phase.legal])))))

end

theorem StreamEnds.of_feed {seen bs : List Byte} {s t : State} {ds : List Bool} (h : StreamEnds seen s) (good : GoodState s)
    (e : feed bs s = .next (t, ds)) : StreamEnds (seen ++ bs) t :=
  (feed_keeps (P := fun xs u => GoodState u ∧ StreamEnds xs u)
    (fun _ _ b ⟨hgood, hends⟩ => ⟨hgood.of_byteNext b, hends.of_byteNext hgood b⟩) ⟨good, h⟩ e).2

/-- Where a byte completes a frame, the bytes consumed end with that frame, its payload in the buffer (R102). -/
theorem StreamEnds.frame {seen : List Byte} {s : State} (h : StreamEnds seen s) (good : GoodState s) {b : Byte}
    (r : byteRule b s = .frameComplete) :
    ∃ p, s.cfg.dec.hdr ++ ser16 s.cfg.dec.order s.len ++ p ++ s.cfg.dec.ftr <:+ seen ++ [b] ∧
      s.buf.readRange 0 s.len.toNat = some p := by
  obtain ⟨hp, hl, hb⟩ := (byteRule_eq_frameComplete_iff b s).mp r
  have hframe := h.footer_concat hp hb
  rwa [hl, List.take_length, good.ptrFooter hp] at hframe

/-! ### The header search (R103, R106) -/

/-- The search of R106: `sig_idx` is the longest proper beginning of HDR that the bytes consumed end with. -/
structure Searching (seen : List Byte) (s : State) : Prop where
  phase : s.phase = .header
  ends : StreamEnds seen s
  longest : LongestBelow s.cfg.dec.hdr seen s.sigIdx.toNat

/-- The bytes matched so far stand for those consumed. -/
theorem Searching.of_header {s : State} (hp : s.phase = .header) :
    Searching (s.cfg.dec.hdr.take s.sigIdx.toNat) s :=
  ⟨hp, (streamEnds_header hp).mpr List.suffix_rfl, .take _ _⟩

/-- One byte completes the header or goes on with the search (R88, R89). -/
theorem Searching.of_byteNext {seen : List Byte} {s : State} (h : Searching seen s) (good : GoodState s) (b : Byte) :
    s.cfg.dec.hdr <:+ seen ++ [b] ∨ Searching (seen ++ [b]) (byteNext b s) := by
  have ends' := h.ends.of_byteNext good b
  rcases good.byteNext_header_cases h.phase b with ⟨-, -, hp⟩ | ⟨-, hp, hi⟩ | ⟨hb, hp, hi⟩
  · rw [streamEnds_len0 hp, byteNext_cfg] at ends'
    exact .inl ends'
  · refine .inr ⟨hp, ends', ?_⟩
    rw [byteNext_cfg, hi]
    exact h.longest.concat b
  · refine .inr ⟨hp, ends', ?_⟩
    rw [byteNext_cfg, hi]
    exact h.longest.concat_mismatch good.hdr_nodup good.sigRange ((streamEnds_header h.phase).mp h.ends) hb

/-- Bytes in which HDR does not appear leave the search going on, complete nothing and store nothing (R103). -/
theorem Searching.feed_noise {seen bs : List Byte} {s : State} (h : Searching seen s) (good : GoodState s)
    (noise : ¬ s.cfg.dec.hdr <:+: seen ++ bs) :
    ∃ t, feed bs s = .next (t, List.replicate bs.length false) ∧ Searching (seen ++ bs) t ∧ t.buf = s.buf := by
  induction bs generalizing seen s with
  | nil => exact ⟨s, feed_nil s, by rwa [List.append_nil], rfl⟩
  | cons b bs ih =>
    rw [← List.singleton_append, ← List.append_assoc] at noise ⊢
    have hnext : Searching (seen ++ [b]) (byteNext b s) :=
      (h.of_byteNext good b).resolve_left fun hw => noise (hw.isInfix.trans ⟨[], bs, rfl⟩)
    obtain ⟨hdone, hstore⟩ : byteRule b s ≠ .frameComplete ∧ byteRule b s ≠ .payloadByte := by
      rw [byteRule_header b h.phase]
      split <;> simp
    obtain ⟨t, hfeed, ht, hbuf⟩ := ih hnext (good.of_byteNext b) (by rwa [byteNext_cfg])
    exact ⟨t, feed_cons_replicate hdone hfeed, ht, by rw [hbuf, byteNext_buf, if_neg hstore]⟩

/-! ### A length that is rejected (R91, R104) -/

/-- A length of at least CAP returns to the start of a header search. -/
theorem feed_ser16_rejected {s : State} {v : Word16} (hp : s.phase = .len0) (hv : s.cfg.cap ≤ v.toNat) :
    feed (ser16 s.cfg.dec.order v) s = .next
      ({ s with
          phase := .header, sigIdx := 0, len := 0, wrPtr := 0
          frameReady := false, frameDone := false, result := .done false },
        List.replicate 2 false) := by
  obtain ⟨b0, b1, hbytes, hval⟩ := ser16_assembles s.cfg.dec.order v
  have r0 := byteRule_len0 b0 hp
  have e0 := byteNext_firstLength r0
  have r1 : byteRule b1 (byteNext b0 s) = .lengthRejected := by
    rw [e0]
    exact (byteRule_len1 b1 rfl).trans (if_pos (hval ▸ hv))
  rw [hbytes]
  refine feed_cons_replicate (by simp [r0]) (feed_cons_replicate (bs := []) (by simp [r1]) ?_)
  rw [byteNext_resync (.inl r1), e0]
  rfl

end Sys2Proof.Machine

open Sys2Proof Sys2Proof.Machine

/-- Settles O53: the bytes before the last leave a state that says what they end with, and the last completes it. -/
theorem completionOnlyOnAWholeFrame : Obligations.CompletionOnlyOnAWholeFrame := by
  intro s t bs ds good hp hi hne hfeed hdone
  obtain ⟨xs, b, rfl⟩ := (List.eq_nil_or_concat' bs).resolve_left hne
  obtain ⟨u, es, hu⟩ := feed_next xs s
  have hcfg := feed_cfg hu
  have hgood := good.of_feed hu
  have hends : StreamEnds xs u := (StreamEnds.of_start (seen := []) hp hi).of_feed good hu
  cases (feed_append hu (feed_cons b [] u (feed_nil _))).symm.trans hfeed
  have r : byteRule b u = .frameComplete := by simpa using hdone
  obtain ⟨p, ⟨pre, hpre⟩, hread⟩ := hends.frame hgood r
  obtain ⟨hlen, -⟩ := (Memory.readRange_spec _ _ _ _).mp hread
  obtain ⟨hfooter, -⟩ := (byteRule_eq_frameComplete_iff b u).mp r
  have hcap : u.len.toNat < u.cfg.cap := hgood.lenBound (by simp [hfooter])
  have hfield : BitVec.ofNat 16 p.length = u.len := by rw [hlen, BitVec.ofNat_toNat, BitVec.setWidth_eq]
  refine ⟨pre, p, by rw [hlen, ← hcfg]; exact hcap, ?_, ?_⟩
  · rw [hfield, ← hcfg, ← hpre]
    simp only [List.append_assoc]
  · rw [byteNext_frameComplete r]
    exact exec_takeWhole_of_readRange rfl hcap.le hread

/-- Settles O54: the matched beginning of HDR and the stream after it are the bytes of one search. -/
theorem noiseNeverLeavesTheHeaderSearch : Obligations.NoiseNeverLeavesTheHeaderSearch := by
  intro s bs good hp noise
  obtain ⟨t, hfeed, ht, hbuf⟩ := (Searching.of_header hp).feed_noise good noise
  exact ⟨t, hfeed, ht.phase, hbuf⟩

/-- Settles O55: the search keeps `sig_idx` longest, and HDR leads to LEN0 from every index. -/
theorem headerSearchIsExact : Obligations.HeaderSearchIsExact := by
  intro s t bs ds good hp hi noise hfeed
  have hstart := Searching.of_header hp
  rw [hi] at hstart
  obtain ⟨t', hfeed', ht, -⟩ := hstart.feed_noise (bs := bs) good noise
  cases hfeed'.symm.trans hfeed
  have hends := (streamEnds_header ht.phase).mp ht.ends
  have hhdr := feed_hdr (good.of_feed hfeed) ht.phase
  have longest := ht.longest
  rw [feed_cfg hfeed] at hends hhdr longest
  exact ⟨⟨hends, fun k hk hH hs => Nat.not_le_of_lt hk (longest k hH hs)⟩, _, hhdr, rfl, rfl⟩

/-- Settles O56: HDR leads to LEN0, and the length field is rejected there. -/
theorem oversizeLengthRejected : Obligations.OversizeLengthRejected := by
  intro s v good hp hv
  have hfeed := feed_append (feed_hdr good hp) (feed_ser16_rejected rfl (by exact hv))
  rw [List.replicate_add]
  exact ⟨_, hfeed, rfl⟩
end

section
/-! PROOFS. The encoder (spec/41_encoder.md R120 to R125): the capacity check, the field multiplexer against the frame it
reads out, the outcomes of ENC and ENCB, and the encoder's frame fed to the decoder. -/

namespace Sys2Proof.Machine

/-! ### The capacity check (R121) -/

theorem capacityExceeded_of_lt {c : Config} {P : Nat} (h : c.encMaxPayload < P) : capacityExceeded c P = true :=
  decide_eq_true h

theorem capacityExceeded_eq_false_iff {c : Config} {P : Nat} : capacityExceeded c P = false ↔ P ≤ c.encMaxPayload := by
  simp [capacityExceeded]

/-! ### The frame and its length (R120, R123) -/

@[simp] theorem ser16_length (o : ByteOrder) (v : Word16) : (ser16 o v).length = 2 := by
  cases o <;> rfl

theorem encFrame_length (c : FrameClass) (cmd : Word16) (p : List Byte) :
    (encFrame c cmd p).length = encLength c p.length := by
  simp only [encFrame, encLength, List.length_append, ser16_length]

/-- `enc_total` holds T: with H and F at most 4 and P of 16 bits it fits 17 bits (R69, R123). -/
theorem toNat_encLength {c : FrameClass} {P : Nat} (hc : c.wf = true) (hP : P < 2 ^ 16) :
    (BitVec.ofNat 17 (encLength c P)).toNat = encLength c P := by
  obtain ⟨-, hH, hF, -⟩ := c.wf_iff.mp hc
  refine Nat.mod_eq_of_lt ?_
  unfold encLength
  omega

/-- To the decoder the command word is the frame's first two payload bytes (R125). -/
theorem encFrame_eq_wireForm (c : FrameClass) (cmd : Word16) (p : List Byte) :
    encFrame c cmd p =
      c.hdr ++ ser16 c.order (BitVec.ofNat 16 (ser16 c.order cmd ++ p).length) ++ (ser16 c.order cmd ++ p) ++ c.ftr := by
  simp [encFrame]

/-- The frame begins with the header and the length field. -/
theorem take_encFrame (c : FrameClass) (cmd : Word16) (p : List Byte) :
    (encFrame c cmd p).take (c.hdr.length + 2) = c.hdr ++ ser16 c.order (BitVec.ofNat 16 (2 + p.length)) := by
  rw [encFrame, List.append_assoc, List.append_assoc]
  exact List.take_left' (by simp)

/-! ### The field multiplexer (R122) -/

/-- R122's rows inside the frame: the index and the field it selects. -/
inductive EncRow (c : FrameClass) (P : Nat) : Nat → EncField → Prop
  | hdr {j : Nat} (h : j < c.hdr.length) : EncRow c P j (.hdr j)
  | lenB0 : EncRow c P c.hdr.length .lenB0
  | lenB1 : EncRow c P (c.hdr.length + 1) .lenB1
  | cmdB0 : EncRow c P (c.hdr.length + 2) .cmdB0
  | cmdB1 : EncRow c P (c.hdr.length + 3) .cmdB1
  | pay {k : Nat} (h : k < P) : EncRow c P (c.hdr.length + (k + 4)) (.pay k)
  | ftr {k : Nat} (h : k < c.ftr.length) : EncRow c P (c.hdr.length + (P + k + 4)) (.ftr k)

/-- Every index below T is in the row of the field it selects. -/
theorem encSelect_row {c : FrameClass} {P j : Nat} (h : j < encLength c P) : EncRow c P j (encSelect c P j) := by
  generalize hf : encSelect c P j = f
  simp only [encSelect] at hf
  split_ifs at hf with hHdr h0 h1 h2 h3 hPay <;> subst hf
  · exact .hdr hHdr
  · exact h0 ▸ .lenB0
  · exact h1 ▸ .lenB1
  · exact h2 ▸ .cmdB0
  · exact h3 ▸ .cmdB1
  · obtain ⟨k, rfl⟩ : ∃ k, j = c.hdr.length + (k + 4) := ⟨j - c.hdr.length - 4, by omega⟩
    have hk : c.hdr.length + (k + 4) - c.hdr.length - 4 = k := by omega
    rw [hk]
    exact .pay (by omega)
  · obtain ⟨k, rfl⟩ : ∃ k, j = c.hdr.length + (P + k + 4) := ⟨j - c.hdr.length - 4 - P, by omega⟩
    have hk : c.hdr.length + (P + k + 4) - c.hdr.length - 4 - P = k := by omega
    rw [hk]
    exact .ftr (by rw [encLength] at h; omega)

/-- From T on no field is selected (R124). -/
theorem encSelect_of_beyond {c : FrameClass} {P j : Nat} (h : encLength c P ≤ j) : encSelect c P j = .none := by
  have hT : c.hdr.length + 4 + P ≤ j := Nat.le_of_add_right_le h
  simp only [encSelect]
  iterate 7 rw [if_neg (by omega)]

/-- The multiplexer shows the frame's own byte at every index inside it (R120, R122). -/
theorem encFrame_getElem? (c : FrameClass) (cmd : Word16) (n : Nat) (p : PayloadPort) {j : Nat}
    (h : j < encLength c p.plen.toNat) :
    (encFrame c cmd (payBytes n p))[j]? =
      some (encFieldByte c cmd p.plen.toNat (payData n p) (encSelect c p.plen.toNat j)) := by
  obtain ⟨l0, l1, hl, -⟩ := ser16_assembles c.order (BitVec.ofNat 16 (2 + p.plen.toNat))
  obtain ⟨c0, c1, hc, -⟩ := ser16_assembles c.order cmd
  have hbytes : encFrame c cmd (payBytes n p) = c.hdr ++ l0 :: l1 :: c0 :: c1 :: (payBytes n p ++ c.ftr) := by
    simp [encFrame, hl, hc]
  rw [hbytes]
  have row := encSelect_row h
  generalize encSelect c p.plen.toNat j = f at row ⊢
  cases row with
  | hdr hj => simp [encFieldByte, List.getElem?_append_left, hj]
  | lenB0 | lenB1 => simp [encFieldByte, hl]
  | cmdB0 | cmdB1 => simp [encFieldByte, hc]
  | pay hk =>
    simpa [encFieldByte, List.getElem?_append_left, List.getElem?_append_right, hk] using payBytes_getElem? n hk
  | ftr hk => simp [encFieldByte, hk]

/-- `enc_pay_addr` is the payload index exactly where the payload stands (R122). -/
theorem encFieldPayAddr_encSelect {c : FrameClass} {P j : Nat} (h : j < encLength c P) :
    encFieldPayAddr (encSelect c P j) =
      if c.hdr.length + 4 ≤ j ∧ j < c.hdr.length + 4 + P then BitVec.ofNat 16 (j - c.hdr.length - 4) else 0 := by
  have row := encSelect_row h
  generalize encSelect c P j = f at row ⊢
  cases row with
  | @pay k hk =>
    have hindex : c.hdr.length + (k + 4) - c.hdr.length - 4 = k := by omega
    rw [if_pos (by omega), hindex, encFieldPayAddr]
  | hdr | lenB0 | lenB1 | cmdB0 | cmdB1 | ftr => exact (if_neg (by omega)).symm

/-- A free value is drawn only at a payload index from the served bytes on (log 17). -/
theorem encFieldUnserved_encSelect {c : FrameClass} {P j : Nat} {p : PayloadPort} (h : j < encLength c P) :
    encFieldUnserved p (encSelect c P j) = false ∨
      c.hdr.length + 4 + p.served.length ≤ j ∧ j < c.hdr.length + 4 + P := by
  have row := encSelect_row h
  generalize encSelect c P j = f at row ⊢
  cases row with
  | @pay k hk =>
    by_cases hs : p.served.length ≤ k
    · exact .inr (by omega)
    · exact .inl (decide_eq_false hs)
  | hdr | lenB0 | lenB1 | cmdB0 | cmdB1 | ftr => exact .inl rfl

/-! ### The ports and the outcomes of ENC and ENCB (R120 to R124) -/

theorem encPorts_of_exceeded {c : Config} {P : Nat} (h : c.encMaxPayload < P) (cmd : Word16) (pay : Nat → Byte) (j : Index17) :
    encPorts c cmd P pay j = { byte := 0, payAddr := 0, total := 0, valid := false, err := true } :=
  if_pos (capacityExceeded_of_lt h)

theorem encPorts_of_fits {c : Config} {P : Nat} (h : P ≤ c.encMaxPayload) (cmd : Word16) (pay : Nat → Byte) (j : Index17) :
    encPorts c cmd P pay j =
      { byte := encFieldByte c.enc cmd P pay (encSelect c.enc P j.toNat)
        payAddr := encFieldPayAddr (encSelect c.enc P j.toNat)
        total := BitVec.ofNat 17 (encLength c.enc P)
        valid := decide (j.toNat < encLength c.enc P)
        err := false } := by
  rw [encPorts, capacityExceeded_eq_false_iff.mpr h]
  rfl

section
variable {s : State} {p : PayloadPort} (cmd : Word16)

theorem exec_enc_of_exceeded (h : s.cfg.encMaxPayload < p.plen.toNat) :
    exec (.enc cmd p) s = .next (s.answer (.frame [] 0 true)) :=
  if_pos (capacityExceeded_of_lt h)

theorem exec_enc_of_fits (h : p.plen.toNat ≤ s.cfg.encMaxPayload) :
    exec (.enc cmd p) s = .next
      ((s.answer (.frame (encFrame s.cfg.enc cmd (payBytes s.freeCount p))
        (BitVec.ofNat 17 (encLength s.cfg.enc p.plen.toNat)) false)).countFree (decide (p.served.length < p.plen.toNat))) := by
  show execEnc cmd p s = _
  rw [execEnc, capacityExceeded_eq_false_iff.mpr h]
  rfl

theorem exec_encb_of_exceeded (h : s.cfg.encMaxPayload < p.plen.toNat) (j : Index17) :
    exec (.encb cmd p j) s = .next
      (s.answer (.encByte { byte := 0, payAddr := 0, total := 0, valid := false, err := true })) := by
  rw [← encPorts_of_exceeded h cmd (payData s.freeCount p) j]
  exact if_pos (capacityExceeded_of_lt h)

theorem exec_encb_inside {j : Index17} (h : p.plen.toNat ≤ s.cfg.encMaxPayload)
    (hj : j.toNat < encLength s.cfg.enc p.plen.toNat) :
    exec (.encb cmd p j) s = .next
      ((s.answer (.encByte (encPorts s.cfg cmd p.plen.toNat (payData s.freeCount p) j))).countFree
        (encFieldUnserved p (encSelect s.cfg.enc p.plen.toNat j.toNat))) := by
  show execEncb cmd p j s = _
  rw [execEncb, capacityExceeded_eq_false_iff.mpr h, if_neg Bool.false_ne_true, if_neg (Nat.not_le_of_lt hj)]

theorem exec_encb_beyond {j : Index17} (h : p.plen.toNat ≤ s.cfg.encMaxPayload)
    (hj : encLength s.cfg.enc p.plen.toNat ≤ j.toNat) : exec (.encb cmd p j) s = .refused .encIndexBeyondFrame := by
  show execEncb cmd p j s = _
  rw [execEncb, capacityExceeded_eq_false_iff.mpr h, if_neg Bool.false_ne_true, if_pos hj]

end

/-! ### A payload of any length (R72, log 18) -/

section
variable {s : State} {p : List Byte} (cmd : Word16)

/-- `ENC cmd, p` of a payload within ENC_MAX_PAYLOAD is its frame (R120). -/
theorem exec_enc_ofBytes (hc : s.cfg.wf = true) (hp : p.length ≤ s.cfg.encMaxPayload) :
    exec (.enc cmd (.ofBytes p)) s = .next
      (s.answer (.frame (encFrame s.cfg.enc cmd p) (BitVec.ofNat 17 (encLength s.cfg.enc p.length)) false)) := by
  obtain ⟨-, -, -, -, hmax⟩ := s.cfg.wf_iff.mp hc
  refine (execEnc_ofBytes cmd p s hmax).trans ?_
  rw [capacityExceeded_eq_false_iff.mpr hp]
  rfl

/-- SEND within ENC_MAX_PAYLOAD feeds the frame to the state ENC leaves (R72). -/
theorem send_of_fits (hc : s.cfg.wf = true) (hp : p.length ≤ s.cfg.encMaxPayload) :
    send cmd p s = feed (encFrame s.cfg.enc cmd p)
      (s.answer (.frame (encFrame s.cfg.enc cmd p) (BitVec.ofNat 17 (encLength s.cfg.enc p.length)) false)) := by
  rw [send, exec_enc_ofBytes cmd hc hp]
  rfl

end

theorem GoodState.of_answer {s : State} (h : GoodState s) (r : Result) : GoodState (s.answer r) :=
  h.of_same rfl rfl rfl rfl rfl rfl rfl id

end Sys2Proof.Machine

open Sys2Proof Sys2Proof.Machine

/-- Settles O57: the encoder's frame is the wire form of command word and payload together, 2 + P < CAP bytes, and the decoder
completes on every such frame. -/
theorem encodeThenDecodeRoundTrip : Obligations.EncodeThenDecodeRoundTrip := by
  intro s cmd p good hclass hp hmax hcap
  obtain ⟨-, -, -, hmin, -⟩ := good.bounds
  have hlen : (ser16 s.cfg.enc.order cmd ++ p).length = 2 + p.length := by simp
  obtain ⟨t, hfeed, -, -, -, htake⟩ := everyFrameCompletes
    (s.answer (.frame (encFrame s.cfg.enc cmd p) (BitVec.ofNat 17 (encLength s.cfg.enc p.length)) false))
    (ser16 s.cfg.enc.order cmd ++ p) (good.of_answer _) hp (by rw [hlen, State.answer_cfg]; omega)
  refine ⟨t, ?_, htake⟩
  rw [State.answer_cfg, hclass, ← encFrame_eq_wireForm, hlen] at hfeed
  rw [send_of_fits cmd good.cfgWf hmax, hfeed]
  congr 5
  omega

/-- Settles O38: the payload bytes are the port's, served where the caller serves them, and `2 + P` fits the field by R9's range. -/
theorem encBuildsTheFrame : Obligations.EncBuildsTheFrame := by
  intro s cmd p hc hmax
  obtain ⟨-, henc, -, -, hrange⟩ := s.cfg.wf_iff.mp hc
  have hlen := payBytes_length s.freeCount p
  have hframe := encFrame_length s.cfg.enc cmd (payBytes s.freeCount p)
  refine ⟨payBytes s.freeCount p, _, _, _, exec_enc_of_fits cmd hmax, hlen, fun k b hk hb => ?_, fun hs => ⟨?_, ?_⟩, rfl,
    hframe, ?_, ?_⟩
  · rw [payBytes_getElem? _ hk, payData_of_served hb]
  · exact payBytes_of_served _ hs
  · simp [Nat.not_lt_of_le hs]
  · rw [toNat_encLength henc p.plen.isLt, hframe, hlen]
  · rw [hlen]
    exact Nat.mod_eq_of_lt (by omega)

/-- Settles O40: inside the frame the multiplexer's byte, payload address and draw are those of the field the index selects. -/
theorem encbAgreesWithEnc : Obligations.EncbAgreesWithEnc := by
  intro s cmd p j hmax hj
  have hinside : j.toNat < encLength s.cfg.enc p.plen.toNat := hj
  have hencb := exec_encb_inside cmd hmax hinside
  rw [encPorts_of_fits hmax, decide_eq_true hinside, encFieldPayAddr_encSelect hinside] at hencb
  refine ⟨_, _, _, _, _, exec_enc_of_fits cmd hmax, encFrame_getElem? _ cmd _ p hinside, hencb, ?_⟩
  exact (encFieldUnserved_encSelect hinside).imp_left fun hu => by rw [hu]; rfl

/-- Settles O49: a refusal is ENCB's at an index from T on, and there it is one. -/
theorem onlyEncbBeyondTheFrameRefuses : Obligations.OnlyEncbBeyondTheFrameRefuses := by
  intro s i
  constructor
  · rintro ⟨r, h⟩
    obtain ⟨cmd, p, j, hi, hfits, hj, -⟩ := exec_refused h
    exact ⟨cmd, p, j, hi, capacityExceeded_eq_false_iff.mp hfits, hj⟩
  · rintro ⟨cmd, p, j, rfl, hmax, hj⟩
    exact ⟨_, exec_encb_beyond cmd hmax hj⟩

/-- Settles O58: the frame begins with the header and a length field of 2 + P ≥ CAP, which the decoder rejects. -/
theorem roundTripBoundIsSharp : Obligations.RoundTripBoundIsSharp := by
  intro s cmd p good hclass hp hmax hcap
  obtain ⟨-, -, -, -, hrange⟩ := s.cfg.wf_iff.mp good.cfgWf
  have hfield : (BitVec.ofNat 16 (2 + p.length)).toNat = 2 + p.length := Nat.mod_eq_of_lt (by omega)
  refine ⟨_, _, _, _, exec_enc_ofBytes cmd good.cfgWf hmax, rfl, ?_, rfl⟩
  obtain ⟨t, hfeed, rfl⟩ := oversizeLengthRejected
    (s.answer (.frame (encFrame s.cfg.enc cmd p) (BitVec.ofNat 17 (encLength s.cfg.enc p.length)) false))
    (BitVec.ofNat 16 (2 + p.length)) (good.of_answer _) hp (by rw [hfield, State.answer_cfg]; omega)
  rw [State.answer_cfg, hclass, ← take_encFrame s.cfg.enc cmd] at hfeed
  rw [hclass]
  exact hfeed

/-- Settles O59: `enc_plen` shows a payload beyond ENC_MAX_PAYLOAD as one, and any other with its own length. -/
theorem encAndSendOfAnyPayload : Obligations.EncAndSendOfAnyPayload := by
  intro s cmd p hc
  obtain ⟨-, henc, -, -, hrange⟩ := s.cfg.wf_iff.mp hc
  constructor
  · intro hp
    exact ⟨_, exec_enc_ofBytes cmd hc hp, toNat_encLength henc (by omega)⟩
  · intro hp
    have hplen : s.cfg.encMaxPayload < (PayloadPort.ofBytes p).plen.toNat := by rw [ofBytes_plen]; omega
    exact ⟨exec_enc_of_exceeded cmd hplen, send_of_exceeded cmd hrange hp⟩

/-- Settles O39: the check on P comes before every index. -/
theorem capacityErrorIsAResult : Obligations.CapacityErrorIsAResult := fun _ cmd _ h =>
  ⟨exec_enc_of_exceeded cmd h, fun j => ⟨_, exec_encb_of_exceeded cmd h j, rfl, rfl, rfl⟩⟩

/-- Settles O41: from T on no field is selected. -/
theorem encbBeyondTheFrameRefused : Obligations.EncbBeyondTheFrameRefused := by
  intro s cmd p j hmax hj
  have hbeyond : encLength s.cfg.enc p.plen.toNat ≤ j.toNat := hj
  refine ⟨exec_encb_beyond cmd hmax hbeyond, fun pay => ?_⟩
  rw [encPorts_of_fits hmax, encSelect_of_beyond hbeyond]
  exact ⟨rfl, decide_eq_false (Nat.not_lt_of_le hbeyond)⟩

/-- Settles O42: without CapacityError T fits the port, and with it both ports are 0. -/
theorem encTotalAndValid : Obligations.EncTotalAndValid := by
  intro c cmd plen pay j hc
  obtain ⟨-, henc, -⟩ := c.wf_iff.mp hc
  constructor
  · intro hmax
    rw [encPorts_of_fits hmax]
    have htotal := toNat_encLength (P := plen.toNat) henc plen.isLt
    exact ⟨htotal, by rw [htotal, decide_eq_true_iff]⟩
  · intro hmax
    rw [encPorts_of_exceeded hmax]
    exact ⟨rfl, rfl⟩
end

section
/-! PROOFS. The conditions of spec/60_exceptions.md R135 to R142: which rule and which phase each silent event belongs to, and what
can fault. -/

namespace Sys2Proof.Machine

/-! ### The silent events of BYTE (R135, codes 1 to 4) -/

section
variable {s : State} {d : Byte} {e : Condition}

/-- The silent rows of R135, inverted: the rule that raises the event and the phase it is raised in. -/
theorem silentEvent_cases (h : (byteRule d s).condition = some e) :
    (e = .resyncHeader ∧ byteRule d s = .headerMismatch ∧ s.phase = .header) ∨
    (e = .resyncLength ∧ byteRule d s = .lengthRejected ∧ s.phase = .len1) ∨
    (e = .resyncFooter ∧ byteRule d s = .footerMismatch ∧ s.phase = .footer) ∨
    (e = .resyncInvariant ∧ byteRule d s = .payloadViolation ∧ s.phase = .payload) ∨
    (e = .resyncInvariant ∧ byteRule d s = .illegalPhase ∧ s.phase.legal = false) := by
  rcases byteRule_cases d s with ⟨r, -⟩ | ⟨r, hp, -⟩ | ⟨r, -⟩ | ⟨r, hp, -⟩ | ⟨r, -⟩ | ⟨r, -⟩ | ⟨r, hp, -⟩ | ⟨r, -⟩ | ⟨r, -⟩ |
    ⟨r, hp, -⟩ | ⟨r, hp⟩ <;> rw [r] at h <;> cases h
  · exact .inl ⟨rfl, r, hp⟩
  · exact .inr (.inl ⟨rfl, r, hp⟩)
  · exact .inr (.inr (.inr (.inl ⟨rfl, r, hp⟩)))
  · exact .inr (.inr (.inl ⟨rfl, r, hp⟩))
  · exact .inr (.inr (.inr (.inr ⟨rfl, r, hp⟩)))

/-- Every silent event ends in the header search: R89 stays there, the others call `Reset()`. -/
theorem byteNext_phase_of_silent (h : (byteRule d s).condition = some e) : (byteNext d s).phase = .header := by
  rcases silentEvent_cases h with ⟨-, r, hp⟩ | ⟨-, r, -⟩ | ⟨-, r, -⟩ | ⟨-, r, -⟩ | ⟨-, r, -⟩
  · rw [byteNext_headerMismatch r]
    exact hp
  · rw [byteNext_resync (.inl r)]
  · rw [byteNext_resync (.inr (.inr (.inl r)))]
  · rw [byteNext_resync (.inr (.inl r))]
  · rw [byteNext_resync (.inr (.inr (.inr r)))]

/-- A silent event is neither the storing rule R93 nor the completing rule R96. -/
theorem byteRule_ne_of_silent (h : (byteRule d s).condition = some e) :
    byteRule d s ≠ .payloadByte ∧ byteRule d s ≠ .frameComplete := by
  constructor <;> intro r <;> rw [r] at h <;> cases h

/-- The codes that name a phase are raised in that phase only. -/
theorem silentEvent_code_iff (h : (byteRule d s).condition = some e) :
    (e.code = 1 ↔ s.phase = .header) ∧ (e.code = 2 ↔ s.phase = .len1) ∧ (e.code = 3 ↔ s.phase = .footer) := by
  rcases silentEvent_cases h with ⟨rfl, -, hp⟩ | ⟨rfl, -, hp⟩ | ⟨rfl, -, hp⟩ | ⟨rfl, -, hp⟩ | ⟨rfl, -, hp⟩
  · simp [hp, Condition.code]
  · simp [hp, Condition.code]
  · simp [hp, Condition.code]
  · simp [hp, Condition.code]
  · have hne : ∀ p : Phase, p.legal = true → s.phase ≠ p := fun p hl hs => by simp [← hs, hp] at hl
    simp [Condition.code, hne .header rfl, hne .len1 rfl, hne .footer rfl]

theorem silentEvent_code (h : (byteRule d s).condition = some e) : e.code = 1 ∨ e.code = 2 ∨ e.code = 3 ∨ e.code = 4 := by
  rcases silentEvent_cases h with ⟨rfl, -⟩ | ⟨rfl, -⟩ | ⟨rfl, -⟩ | ⟨rfl, -⟩ | ⟨rfl, -⟩ <;> decide

end

/-! ### What faults (R137, R138) -/

/-- No operation but TAKE faults. -/
theorem exec_fault {i : Instr} {s : State} {r : Fault} (h : exec i s = .fault r) : ∃ f, i = .take f := by
  cases i with
  | por | reset | byte | idle => cases h
  | take f => exact ⟨f, rfl⟩
  | enc cmd p =>
    obtain ⟨_, _, e, -⟩ := execEnc_next cmd p s
    cases e.symm.trans h
  | encb cmd p j =>
    rcases execEncb_cases cmd p j s with ⟨-, -, e⟩ | ⟨-, _, e, -⟩ <;> cases e.symm.trans h

section
variable {s : State}

theorem readAllowed_whole_iff : ReadAllowed .whole s ↔ s.frameReady = true := by simp [ReadAllowed]

theorem readAllowed_port_iff {a : Addr} : ReadAllowed (.port a) s ↔ s.frameReady = true ∧ a.toNat < s.len.toNat := by
  simp [ReadAllowed]

/-- A read outside its window faults in every state (R101). -/
theorem exec_take_of_not_allowed {f : ReadForm} (h : ¬ ReadAllowed f s) : ∃ r, exec (.take f) s = .fault r := by
  cases hr : s.frameReady with
  | false => exact ⟨_, exec_take_of_not_ready hr f⟩
  | true =>
    cases f with
    | whole => exact absurd (readAllowed_whole_iff.mpr hr) h
    | port a =>
      have hout : s.len.toNat ≤ a.toNat := Nat.le_of_not_lt fun hl => h (readAllowed_port_iff.mpr ⟨hr, hl⟩)
      exact ⟨_, exec_takePort_out_of_range hr (.inl hout)⟩

/-- While `frame_ready` is set the payload ends below CAP. -/
theorem GoodState.len_lt_cap_of_ready (good : GoodState s) (hr : s.frameReady = true) : s.len.toNat < s.cfg.cap := by
  obtain ⟨hp, -⟩ := good.readyPhase hr
  exact good.lenBound (by simp [hp])

/-- In a good state a read inside its window is answered: its cells exist and are written. -/
theorem GoodState.exec_take_of_allowed (good : GoodState s) {f : ReadForm} (h : ReadAllowed f s) :
    ∃ t, exec (.take f) s = .next t := by
  have ⟨hr, _⟩ := h
  have hlen := good.len_lt_cap_of_ready hr
  cases f with
  | whole =>
    obtain ⟨_, e, -⟩ := takeReturnsThePayload s hr (Nat.le_of_lt hlen) (good.readyFilled hr)
    exact ⟨_, e⟩
  | port a =>
    obtain ⟨-, hl⟩ := readAllowed_port_iff.mp h
    obtain ⟨b, hb⟩ := Option.isSome_iff_exists.mp (good.readyFilled hr a.toNat hl)
    obtain ⟨e, -⟩ := readPortReturnsTheCell s a b hr hl (Nat.lt_trans hl hlen) hb
    exact ⟨_, e⟩

end

end Sys2Proof.Machine

open Sys2Proof Sys2Proof.Machine

/-- Settles O28: a silent event is one of the rules that end in HEADER and neither store nor complete. -/
theorem silentEventsOnlyResynchronise : Obligations.SilentEventsOnlyResynchronise := by
  intro s d e h
  obtain ⟨hstore, hcomplete⟩ := byteRule_ne_of_silent h
  refine ⟨silentEvent_code h, _, exec_byte d s, byteNext_phase_of_silent h, ?_, ?_, ?_, silentEvent_code_iff h⟩
  · simp [hcomplete]
  · simp [hcomplete]
  · rw [byteNext_buf, if_neg hstore]

/-- Settles O48: outside its window a read always faults, and inside it the invariant leaves nothing to fault on. -/
theorem onlyReadsOutsideTheWindowFault : Obligations.OnlyReadsOutsideTheWindowFault := by
  intro s i good
  constructor
  · rintro ⟨r, h⟩
    obtain ⟨f, rfl⟩ := exec_fault h
    refine ⟨f, rfl, fun allowed => ?_⟩
    obtain ⟨_, e⟩ := good.exec_take_of_allowed allowed
    cases e.symm.trans h
  · rintro ⟨f, rfl, outside⟩
    exact exec_take_of_not_allowed outside

/-- Settles O29: TAKE alone faults, the capacity check answers a result, and the step looks at the configuration first. -/
theorem errorOutcomesCarryTheirCodes : Obligations.ErrorOutcomesCarryTheirCodes :=
  ⟨fun _ _ _ h => ⟨rfl, exec_fault h⟩, fun _ cmd _ h => ⟨_, exec_enc_of_exceeded cmd h, rfl⟩,
    fun _ h => ⟨_, step_of_not_wf (by simp [h]), rfl⟩⟩
end

section
/-! PROOFS. Reset and hazards (spec/70_reset_and_hazards.md R155 to R165): POR and RESET, the byte presented with a reset, the payload
window, and idle clocks. -/

namespace Sys2Proof

/-- `soft_reset` with `in_valid` and any byte is a word of RESET's row (R67). -/
theorem Diw.softResetWithByte_row (d : Byte) : ((0x300 : Diw) ||| d.zeroExtend 11) &&& 0x600 = 0x200 :=
  (Diw.reset_row_iff _).mpr (by simp)

end Sys2Proof

namespace Sys2Proof.Machine

/-! ### The payload window (R159) -/

/-- TAKE of the whole payload completes exactly where all its checks pass, and answers the cells (R101). -/
theorem exec_takeWhole_next_iff {s t : State} :
    exec (.take .whole) s = .next t ↔
      ∃ bytes, s.frameReady = true ∧ s.len.toNat ≤ s.cfg.cap ∧ s.buf.readRange 0 s.len.toNat = some bytes ∧
        t = s.answer (.payload s.len bytes) := by
  constructor
  · intro h
    rcases takeWhole_cases s with ⟨-, e⟩ | ⟨-, -, e⟩ | ⟨-, -, -, e⟩ | ⟨bytes, hr, hl, hb, e⟩ <;> cases e.symm.trans h
    exact ⟨bytes, hr, hl, hb, rfl⟩
  · rintro ⟨bytes, hr, hl, hb, rfl⟩
    exact exec_takeWhole_of_readRange hr hl hb

/-- The payload of a completing TAKE stands as long as `frame_ready`, `len` and the buffer do. -/
theorem exec_takeWhole_of_same {s t r : State} (h : exec (.take .whole) s = .next r) (cfg : t.cfg = s.cfg)
    (ready : t.frameReady = s.frameReady) (len : t.len = s.len) (buf : t.buf = s.buf) :
    exec (.take .whole) t = .next (t.answer r.result) := by
  obtain ⟨bytes, hr, hl, hb, rfl⟩ := exec_takeWhole_next_iff.mp h
  rw [← len, ← buf] at hb
  rw [← len, ← cfg] at hl
  exact exec_takeWhole_next_iff.mpr ⟨bytes, ready.trans hr, hl, hb, by rw [len]; rfl⟩

/-! ### The outputs of an earlier step are not read (R33, R165) -/

/-- WAIT changes `frame_done` and the step's output only (R72, R100). -/
theorem wait_next (n : Nat) (s : State) : ∃ v r, wait n s = .next ((s.setDone v).answer r) := by
  rcases wait_cases n s with h | h
  · exact ⟨s.frameDone, s.result, h⟩
  · exact ⟨false, .done false, h⟩

/-- BYTE overwrites both outputs and reads neither, under every rule. -/
theorem byteNext_of_outputs (d : Byte) (s : State) (v : Bool) (r : Result) :
    byteNext d ((s.setDone v).answer r) = byteNext d s := by
  have same : byteRule d ((s.setDone v).answer r) = byteRule d s := rfl
  cases h : byteRule d s with
  | headerMatch => exact (byteNext_headerMatch (same.trans h)).trans (byteNext_headerMatch h).symm
  | payloadByte => exact (byteNext_payloadByte (same.trans h)).trans (byteNext_payloadByte h).symm
  | headerMismatch | firstLength | lengthRejected | lengthAccepted | payloadViolation | footerMatch | frameComplete
  | footerMismatch | illegalPhase =>
    rw [byteNext, byteNext, same, h]
    rfl

/-- TAKE answers the same output or faults for the same reason whatever the outputs before it. -/
theorem exec_take_of_outputs (form : ReadForm) (s : State) (v : Bool) (r : Result) :
    (∃ w, exec (.take form) s = .next (s.answer w) ∧
      exec (.take form) ((s.setDone v).answer r) = .next (((s.setDone v).answer r).answer w)) ∨
    ∃ e, exec (.take form) s = .fault e ∧ exec (.take form) ((s.setDone v).answer r) = .fault e := by
  have same : exec (.take form) ((s.setDone v).answer r) = execTake form (s.setDone v) := execTake_answer form _ r
  rw [same]
  exact execTake_setDone form s v

/-- ENC answers the same output and draws the same free values whatever the outputs before it (R33, log 17). -/
theorem exec_enc_of_outputs (cmd : Word16) (p : PayloadPort) (s : State) (v : Bool) (r : Result) :
    ∃ w n, exec (.enc cmd p) s = .next { s with result := w, freeCount := n } ∧
      exec (.enc cmd p) ((s.setDone v).answer r) =
        .next { (s.setDone v).answer r with result := w, freeCount := n } := by
  rcases Nat.lt_or_ge s.cfg.encMaxPayload p.plen.toNat with h | h
  · exact ⟨_, s.freeCount, exec_enc_of_exceeded cmd h, exec_enc_of_exceeded cmd h⟩
  · exact ⟨_, _, exec_enc_of_fits cmd h, exec_enc_of_fits cmd h⟩

/-- ENCB answers the same output or is refused in the same way whatever the outputs before it (R33, R124, log 17). -/
theorem exec_encb_of_outputs (cmd : Word16) (p : PayloadPort) (j : Index17) (s : State) (v : Bool) (r : Result) :
    (∃ w n, exec (.encb cmd p j) s = .next { s with result := w, freeCount := n } ∧
      exec (.encb cmd p j) ((s.setDone v).answer r) =
        .next { (s.setDone v).answer r with result := w, freeCount := n }) ∨
    (exec (.encb cmd p j) s = .refused .encIndexBeyondFrame ∧
      exec (.encb cmd p j) ((s.setDone v).answer r) = .refused .encIndexBeyondFrame) := by
  rcases Nat.lt_or_ge s.cfg.encMaxPayload p.plen.toNat with h | h
  · exact .inl ⟨_, s.freeCount, exec_encb_of_exceeded cmd h j, exec_encb_of_exceeded (s := (s.setDone v).answer r) cmd h j⟩
  · rcases Nat.lt_or_ge j.toNat (encLength s.cfg.enc p.plen.toNat) with hj | hj
    · exact .inl ⟨_, _, exec_encb_inside cmd h hj, exec_encb_inside cmd h hj⟩
    · exact .inr ⟨exec_encb_beyond cmd h hj, exec_encb_beyond cmd h hj⟩

end Sys2Proof.Machine

open Sys2Proof Sys2Proof.Machine

/-- Settles O32: idle clocks write the two outputs, which no operation reads. -/
theorem idleClocksAreInvisible : Obligations.IdleClocksAreInvisible := by
  intro n s
  obtain ⟨v, r, hw⟩ := wait_next n s
  refine ⟨_, hw, fun d => congrArg Host.Outcome.next (byteNext_of_outputs d s v r), rfl, rfl, rfl, fun f t h => ?_, fun f e => ?_,
    fun cmd p => exec_enc_of_outputs cmd p s v r, fun cmd p j => exec_encb_of_outputs cmd p j s v r⟩
  · rcases exec_take_of_outputs f s v r with ⟨w, hs, hu⟩ | ⟨e, hs, -⟩ <;> cases hs.symm.trans h
    exact hu
  · rcases exec_take_of_outputs f s v r with ⟨w, hs, hu⟩ | ⟨e', hs, hu⟩ <;> simp [hs, hu]

/-- Settles O37: an operation keeps `frame_ready`, `len` and the buffer, or it leaves `frame_ready` cleared. -/
theorem readWindow : Obligations.ReadWindow := by
  intro s t r i hr ht
  cases i with
  | idle =>
    cases ht
    exact exec_takeWhole_of_same hr rfl rfl rfl rfl
  | take | enc | encb =>
    obtain ⟨_, _, rfl⟩ := exec_next_of_unclocked (by exact trivial) ht
    exact exec_takeWhole_of_same hr rfl rfl rfl rfl
  | reset | por =>
    cases ht
    exact exec_take_of_not_ready rfl .whole
  | byte d =>
    cases ht
    intro hdone
    exact exec_take_of_not_ready (by rw [byteNext_frameReady, ← byteNext_frameDone, hdone]) .whole

/-- Settles O9: the word is in RESET's row, whose operation carries no byte. -/
theorem softResetLosesTheByte : Obligations.SoftResetLosesTheByte := by
  intro s rest d hc hx
  have hf := s.fetch_cons _ rest hx
  have hd : decode s.fetch.1 = .ok .reset := by
    rw [hf]
    exact congrArg Except.ok (decodeDiw_reset (Diw.softResetWithByte_row d))
  rw [step_of_decode hc hd, hf]

/-- Settles O11: the row of POR, and `Reset()` with an erased buffer and `done = false`. -/
theorem porEffect : Obligations.PorEffect :=
  ⟨fun _ h => congrArg Except.ok (decodeDiw_por h), fun s => ⟨exec_por s, Memory.read_nil⟩⟩

/-- Settles O13: both call `Reset()`, and POR erases the buffer as well. -/
theorem porAndResetDifferOnlyInTheBuffer : Obligations.PorAndResetDifferOnlyInTheBuffer := fun s =>
  ⟨_, _, exec_por s, exec_reset s, rfl, Memory.read_nil, rfl⟩
end
